-- ==== Sys2Proof/Word.lean ====
section
/-!
DEFINITION. The value types of the machine (spec/00_scope.md R6, R7; spec/30_encoding.md R91). Every quantity is
unsigned; all arithmetic on these types wraps.
-/

namespace Sys2Proof

/-- An 8-bit value: a general register, a memory cell, a timer, the field `kk` (R6, R21, R34). -/
abbrev Byte := BitVec 8

/-- A 16-bit value: `PC`, `I`, `IR`, a stack slot, an instruction word (R23, R24, R25, R32). -/
abbrev Word := BitVec 16

/-- A 4-bit field that is not a register index: a secondary key or don't-care bits (R91, R99). -/
abbrev Nibble := BitVec 4

/-- The 12-bit field `nnn` (R91, R93). -/
abbrev Addr12 := BitVec 12

/-- The index of one of the sixteen general registers `V0`..`VF` (R21), as the fields `x` and `y` name it. -/
abbrev RegIdx := Fin 16

/-- The index of `VF`, the register that doubles as the flag (R22). -/
abbrev flagIdx : RegIdx := 15

end Sys2Proof
end

