-- ==== Sys2Proof/Syntax.lean ====
section
/-!
DEFINITION. The instructions: one constructor per row of spec/opcode_table.json (spec/30_encoding.md R103), with
the operands its format gives (R92). Where the row leaves bits that are neither a secondary key nor an operand
(R99), the constructor carries them last, under the name `pad`, and the no-op carries its whole word (R100), so
that decoding loses no bit and encoding gives every word back; no meaning looks at them (notes/assumptions/8.md).
-/

namespace Sys2Proof

/-- An instruction. The rule named at each constructor is the one its meaning follows. -/
inductive Instr where
  /-- CLS, `0**0`, clear the screen (R191); `pad` is bits [11:4]. -/
  | cls (pad : Byte)
  /-- RET, `0**E`, return from subroutine (R142); `pad` is bits [11:4]. -/
  | ret (pad : Byte)
  /-- JP nnn, `1nnn` (R140). -/
  | jp (nnn : Addr12)
  /-- CALL nnn, `2nnn` (R141). -/
  | call (nnn : Addr12)
  /-- SE Vx, kk, `3xkk` (R150). -/
  | seImm (x : RegIdx) (kk : Byte)
  /-- SNE Vx, kk, `4xkk` (R151). -/
  | sneImm (x : RegIdx) (kk : Byte)
  /-- SE Vx, Vy, `5xy*` (R152); `pad` is bits [3:0]. -/
  | seReg (x y : RegIdx) (pad : Nibble)
  /-- LD Vx, kk, `6xkk` (R160). -/
  | ldImm (x : RegIdx) (kk : Byte)
  /-- ADD Vx, kk, `7xkk` (R161). -/
  | addImm (x : RegIdx) (kk : Byte)
  /-- LD Vx, Vy, `8xy0` (R162). -/
  | ldReg (x y : RegIdx)
  /-- OR Vx, Vy, `8xy1` (R163). -/
  | orReg (x y : RegIdx)
  /-- AND Vx, Vy, `8xy2` (R164). -/
  | andReg (x y : RegIdx)
  /-- XOR Vx, Vy, `8xy3` (R165). -/
  | xorReg (x y : RegIdx)
  /-- ADD Vx, Vy, `8xy4` (R166). -/
  | addReg (x y : RegIdx)
  /-- SUB Vx, Vy, `8xy5` (R167). -/
  | subReg (x y : RegIdx)
  /-- SHR Vx, `8x*6` (R169); `pad` is bits [7:4]. -/
  | shr (x : RegIdx) (pad : Nibble)
  /-- SUBN Vx, Vy, `8xy7` (R168). -/
  | subnReg (x y : RegIdx)
  /-- SHL Vx, `8x*E` (R170); `pad` is bits [7:4]. -/
  | shl (x : RegIdx) (pad : Nibble)
  /-- SNE Vx, Vy, `9xy*` (R153); `pad` is bits [3:0]. -/
  | sneReg (x y : RegIdx) (pad : Nibble)
  /-- LD I, nnn, `Annn` (R180). -/
  | ldI (nnn : Addr12)
  /-- JP V0, nnn, `Bnnn` (R143). -/
  | jpV0 (nnn : Addr12)
  /-- RND Vx, kk, `Cxkk` (R183). -/
  | rnd (x : RegIdx) (kk : Byte)
  /-- DRW Vx, Vy, n, `Dxyn` (R192); `n` is a count of rows. -/
  | drw (x y : RegIdx) (n : Fin 16)
  /-- SKP Vx, `Ex*E` (R154); `pad` is bits [7:4]. -/
  | skp (x : RegIdx) (pad : Nibble)
  /-- SKNP Vx, `Ex*1` (R155); `pad` is bits [7:4]. -/
  | sknp (x : RegIdx) (pad : Nibble)
  /-- LD Vx, DT, `Fx07` (R200). -/
  | ldVxDt (x : RegIdx)
  /-- LD Vx, K, `Fx0A` (R203). -/
  | ldVxK (x : RegIdx)
  /-- LD DT, Vx, `Fx15` (R201). -/
  | ldDtVx (x : RegIdx)
  /-- LD ST, Vx, `Fx18` (R202). -/
  | ldStVx (x : RegIdx)
  /-- ADD I, Vx, `Fx1E` (R181). -/
  | addI (x : RegIdx)
  /-- LD F, Vx, `Fx29` (R182). -/
  | ldF (x : RegIdx)
  /-- LD B, Vx, `Fx33` (R210). -/
  | ldB (x : RegIdx)
  /-- LD [I], Vx, `Fx55` (R211). -/
  | ldMemVx (x : RegIdx)
  /-- LD Vx, [I], `Fx65` (R212). -/
  | ldVxMem (x : RegIdx)
  /-- NOP, the no-op handler (R125), for the unassigned word `word` (R100). -/
  | nop (word : Word)
  deriving DecidableEq, Repr

end Sys2Proof
end

