-- ==== Sys2Proof/WellFormed.lean ====
section
/-!
DEFINITION. Which terms of `Instr` stand for an encoding. Every operand's range is its type's, so the one check is
that a no-op's word is an unassigned one (spec/30_encoding.md R100), written from the explicit patterns of the NOP
row of spec/opcode_table.json and not from the decoder.
-/

namespace Sys2Proof

/-- The nine low bytes that class F assigns (R98). -/
def classFKeys : List Word := [0x07#16, 0x0A#16, 0x15#16, 0x18#16, 0x1E#16, 0x29#16, 0x33#16, 0x55#16, 0x65#16]

/-- The words no row but the no-op's matches (R100). -/
def unassigned (w : Word) : Bool :=
  let top := w &&& 0xF000#16
  let low := w &&& 0x000F#16
  (top == 0x0000#16 && low != 0x0#16 && low != 0xE#16) ||
  (top == 0x8000#16 && (low ∈ [0x8#16, 0x9#16, 0xA#16, 0xB#16, 0xC#16, 0xD#16, 0xF#16] : Bool)) ||
  (top == 0xE000#16 && low != 0x1#16 && low != 0xE#16) ||
  (top == 0xF000#16 && !((w &&& 0x00FF#16) ∈ classFKeys : Bool))

/-- An instruction that some word encodes. -/
def Instr.wellFormed : Instr → Bool
  | .nop w => unassigned w
  | .cls _ | .ret _ | .jp _ | .call _ | .seImm _ _ | .sneImm _ _ | .seReg _ _ _ | .ldImm _ _ | .addImm _ _
  | .ldReg _ _ | .orReg _ _ | .andReg _ _ | .xorReg _ _ | .addReg _ _ | .subReg _ _ | .shr _ _ | .subnReg _ _
  | .shl _ _ | .sneReg _ _ _ | .ldI _ | .jpV0 _ | .rnd _ _ | .drw _ _ _ | .skp _ _ | .sknp _ _ | .ldVxDt _
  | .ldVxK _ | .ldDtVx _ | .ldStVx _ | .addI _ | .ldF _ | .ldB _ | .ldMemVx _ | .ldVxMem _ => true

end Sys2Proof
end

