-- ==== Sys2Proof/Decode.lean ====
section
/-!
DEFINITION. The decoder and the encoder (spec/30_encoding.md R90 to R103). The decoder is total on words (R101); on
bytes it takes the first two, high byte first (R63, R90), and refuses by name a list that is too short.
-/

namespace Sys2Proof

/-! ### Fields of a word (R91) -/

/-- `op`, bits [15:12]: the class. -/
def fieldOp (w : Word) : Nibble := w.extractLsb' 12 4

/-- `x`, bits [11:8]: the first register index. -/
def fieldX (w : Word) : RegIdx := (w.extractLsb' 8 4).toFin

/-- `y`, bits [7:4]: the second register index. -/
def fieldY (w : Word) : RegIdx := (w.extractLsb' 4 4).toFin

/-- `n`, bits [3:0]: the secondary key of classes 0, 8 and E, the row count of class D. -/
def fieldN (w : Word) : Nibble := w.extractLsb' 0 4

/-- `kk`, bits [7:0]: the immediate byte, the secondary key of class F. -/
def fieldKK (w : Word) : Byte := w.extractLsb' 0 8

/-- `nnn`, bits [11:0]: the immediate address. -/
def fieldNNN (w : Word) : Addr12 := w.extractLsb' 0 12

/-- Bits [7:4] as don't-care bits (R99). -/
def fieldPadY (w : Word) : Nibble := w.extractLsb' 4 4

/-- Bits [11:4] as don't-care bits (R99). -/
def fieldPadXY (w : Word) : Byte := w.extractLsb' 4 8

/-! ### The decoder (R94 to R102) -/

/-- Class 0: the low nibble alone selects (R95). -/
def decodeClass0 (w : Word) : Instr :=
  match fieldN w with
  | 0x0#4 => .cls (fieldPadXY w)
  | 0xE#4 => .ret (fieldPadXY w)
  | _ => .nop w

/-- Class 8: the low nibble alone selects (R96). -/
def decodeClass8 (w : Word) : Instr :=
  match fieldN w with
  | 0x0#4 => .ldReg (fieldX w) (fieldY w)
  | 0x1#4 => .orReg (fieldX w) (fieldY w)
  | 0x2#4 => .andReg (fieldX w) (fieldY w)
  | 0x3#4 => .xorReg (fieldX w) (fieldY w)
  | 0x4#4 => .addReg (fieldX w) (fieldY w)
  | 0x5#4 => .subReg (fieldX w) (fieldY w)
  | 0x6#4 => .shr (fieldX w) (fieldPadY w)
  | 0x7#4 => .subnReg (fieldX w) (fieldY w)
  | 0xE#4 => .shl (fieldX w) (fieldPadY w)
  | _ => .nop w

/-- Class E: the low nibble alone selects (R97). -/
def decodeClassE (w : Word) : Instr :=
  match fieldN w with
  | 0x1#4 => .sknp (fieldX w) (fieldPadY w)
  | 0xE#4 => .skp (fieldX w) (fieldPadY w)
  | _ => .nop w

/-- Class F: the whole low byte selects (R98). -/
def decodeClassF (w : Word) : Instr :=
  match fieldKK w with
  | 0x07#8 => .ldVxDt (fieldX w)
  | 0x0A#8 => .ldVxK (fieldX w)
  | 0x15#8 => .ldDtVx (fieldX w)
  | 0x18#8 => .ldStVx (fieldX w)
  | 0x1E#8 => .addI (fieldX w)
  | 0x29#8 => .ldF (fieldX w)
  | 0x33#8 => .ldB (fieldX w)
  | 0x55#8 => .ldMemVx (fieldX w)
  | 0x65#8 => .ldVxMem (fieldX w)
  | _ => .nop w

/-- The instruction a word stands for (R102): total, and never an error (R100, R101). -/
def decodeWord (w : Word) : Instr :=
  match fieldOp w with
  | 0x0#4 => decodeClass0 w
  | 0x1#4 => .jp (fieldNNN w)
  | 0x2#4 => .call (fieldNNN w)
  | 0x3#4 => .seImm (fieldX w) (fieldKK w)
  | 0x4#4 => .sneImm (fieldX w) (fieldKK w)
  | 0x5#4 => .seReg (fieldX w) (fieldY w) (fieldN w)
  | 0x6#4 => .ldImm (fieldX w) (fieldKK w)
  | 0x7#4 => .addImm (fieldX w) (fieldKK w)
  | 0x8#4 => decodeClass8 w
  | 0x9#4 => .sneReg (fieldX w) (fieldY w) (fieldN w)
  | 0xA#4 => .ldI (fieldNNN w)
  | 0xB#4 => .jpV0 (fieldNNN w)
  | 0xC#4 => .rnd (fieldX w) (fieldKK w)
  | 0xD#4 => .drw (fieldX w) (fieldY w) (fieldN w).toFin
  | 0xE#4 => decodeClassE w
  | _ => decodeClassF w

/-! ### Words and bytes (R63, R90) -/

/-- Two bytes as a word, the byte at the lower address the more significant (R63). -/
def joinBytes (hi lo : Byte) : Word := (hi.setWidth 16 <<< 8) ||| lo.setWidth 16

/-- The two bytes of a word in memory order, high byte at the lower address (R63, R90). -/
def wordBytes (w : Word) : List Byte := [w.extractLsb' 8 8, w.extractLsb' 0 8]

/-- Why a list of bytes holds no instruction. Words themselves are never refused (R101). -/
inductive DecodeError where
  /-- Fewer than the two bytes every instruction has (R90). -/
  | truncated
  deriving DecidableEq, Repr

/-- The first instruction of a list of bytes, and the bytes after it. -/
def decode : List Byte → Except DecodeError (Instr × List Byte)
  | hi :: lo :: rest => .ok (decodeWord (joinBytes hi lo), rest)
  | [_] | [] => .error .truncated

/-! ### The encoder (R91, R92, R103) -/

/-- A word of the layout `op nnn`. -/
def packNNN (op : Nat) (nnn : Addr12) : Word := BitVec.ofNat 16 (op * 0x1000 + nnn.toNat)

/-- A word of the layout `op x kk`. -/
def packXKK (op : Nat) (x : RegIdx) (kk : Byte) : Word := BitVec.ofNat 16 (op * 0x1000 + x.val * 0x100 + kk.toNat)

/-- A word of the layout `op x y n`. -/
def packXYN (op : Nat) (x y n : Nat) : Word := BitVec.ofNat 16 (op * 0x1000 + x * 0x100 + y * 0x10 + n)

/-- A word of the layout `0 pad n`, `pad` the don't-care bits [11:4] of class 0. -/
def packClass0 (pad : Byte) (n : Nat) : Word := BitVec.ofNat 16 (pad.toNat * 0x10 + n)

/-- The word of an instruction (the map of R103, with the don't-care bits the instruction carries). -/
def encode : Instr → Word
  | .cls pad => packClass0 pad 0x0
  | .ret pad => packClass0 pad 0xE
  | .jp nnn => packNNN 0x1 nnn
  | .call nnn => packNNN 0x2 nnn
  | .seImm x kk => packXKK 0x3 x kk
  | .sneImm x kk => packXKK 0x4 x kk
  | .seReg x y pad => packXYN 0x5 x y pad.toNat
  | .ldImm x kk => packXKK 0x6 x kk
  | .addImm x kk => packXKK 0x7 x kk
  | .ldReg x y => packXYN 0x8 x y 0x0
  | .orReg x y => packXYN 0x8 x y 0x1
  | .andReg x y => packXYN 0x8 x y 0x2
  | .xorReg x y => packXYN 0x8 x y 0x3
  | .addReg x y => packXYN 0x8 x y 0x4
  | .subReg x y => packXYN 0x8 x y 0x5
  | .shr x pad => packXYN 0x8 x pad.toNat 0x6
  | .subnReg x y => packXYN 0x8 x y 0x7
  | .shl x pad => packXYN 0x8 x pad.toNat 0xE
  | .sneReg x y pad => packXYN 0x9 x y pad.toNat
  | .ldI nnn => packNNN 0xA nnn
  | .jpV0 nnn => packNNN 0xB nnn
  | .rnd x kk => packXKK 0xC x kk
  | .drw x y n => packXYN 0xD x y n
  | .skp x pad => packXYN 0xE x pad.toNat 0xE
  | .sknp x pad => packXYN 0xE x pad.toNat 0x1
  | .ldVxDt x => packXKK 0xF x 0x07
  | .ldVxK x => packXKK 0xF x 0x0A
  | .ldDtVx x => packXKK 0xF x 0x15
  | .ldStVx x => packXKK 0xF x 0x18
  | .addI x => packXKK 0xF x 0x1E
  | .ldF x => packXKK 0xF x 0x29
  | .ldB x => packXKK 0xF x 0x33
  | .ldMemVx x => packXKK 0xF x 0x55
  | .ldVxMem x => packXKK 0xF x 0x65
  | .nop w => w

/-! ### The opcode map (R103) -/

/-- The mask of an instruction's row; 0 for the fall-through row. -/
def rowMask : Instr → Word
  | .jp _ | .call _ | .seImm _ _ | .sneImm _ _ | .seReg _ _ _ | .ldImm _ _ | .addImm _ _ | .sneReg _ _ _ | .ldI _
  | .jpV0 _ | .rnd _ _ | .drw _ _ _ => 0xF000#16
  | .cls _ | .ret _ | .ldReg _ _ | .orReg _ _ | .andReg _ _ | .xorReg _ _ | .addReg _ _ | .subReg _ _ | .shr _ _
  | .subnReg _ _ | .shl _ _ | .skp _ _ | .sknp _ _ => 0xF00F#16
  | .ldVxDt _ | .ldVxK _ | .ldDtVx _ | .ldStVx _ | .addI _ | .ldF _ | .ldB _ | .ldMemVx _ | .ldVxMem _ => 0xF0FF#16
  | .nop _ => 0x0000#16

/-- The match value of an instruction's row. -/
def rowMatch : Instr → Word
  | .cls _ => 0x0000#16
  | .ret _ => 0x000E#16
  | .jp _ => 0x1000#16
  | .call _ => 0x2000#16
  | .seImm _ _ => 0x3000#16
  | .sneImm _ _ => 0x4000#16
  | .seReg _ _ _ => 0x5000#16
  | .ldImm _ _ => 0x6000#16
  | .addImm _ _ => 0x7000#16
  | .ldReg _ _ => 0x8000#16
  | .orReg _ _ => 0x8001#16
  | .andReg _ _ => 0x8002#16
  | .xorReg _ _ => 0x8003#16
  | .addReg _ _ => 0x8004#16
  | .subReg _ _ => 0x8005#16
  | .shr _ _ => 0x8006#16
  | .subnReg _ _ => 0x8007#16
  | .shl _ _ => 0x800E#16
  | .sneReg _ _ _ => 0x9000#16
  | .ldI _ => 0xA000#16
  | .jpV0 _ => 0xB000#16
  | .rnd _ _ => 0xC000#16
  | .drw _ _ _ => 0xD000#16
  | .skp _ _ => 0xE00E#16
  | .sknp _ _ => 0xE001#16
  | .ldVxDt _ => 0xF007#16
  | .ldVxK _ => 0xF00A#16
  | .ldDtVx _ => 0xF015#16
  | .ldStVx _ => 0xF018#16
  | .addI _ => 0xF01E#16
  | .ldF _ => 0xF029#16
  | .ldB _ => 0xF033#16
  | .ldMemVx _ => 0xF055#16
  | .ldVxMem _ => 0xF065#16
  | .nop _ => 0x0000#16

/-! ### The opcode table's reading of a word -/

/-- The word that the opcode table numbers as `nbits` bits `w`: the bits above `nbits` are 0, and the table's 16-bit
word is numbered from its least significant bit. -/
def tableWord (nbits w : Nat) : Word := BitVec.ofNat 16 (w % 2 ^ nbits)

/-- The instruction the decoder reads from a table word laid out in memory order. -/
def decodeTableWord (nbits w : Nat) : Option Instr :=
  match decode (wordBytes (tableWord nbits w)) with
  | .ok (i, _) => some i
  | .error _ => none

end Sys2Proof
end

