-- ==== Sys2Proof/Config.lean ====
section
/-!
DEFINITION. What is fixed for one block and not state (spec/00_scope.md R6, spec/10_state.md R35): the sizes, the
OPEN parameters as constants with no body, and the free bytes of the random source. Nothing can be proved about
the value of a constant with no body beyond its type, so every theorem holds for every choice of it.
-/

namespace Sys2Proof.Config

/-- `MEM_SIZE`: the number of memory cells (R6, R60). -/
abbrev memSize : Nat := 4096

/-- `PROG_BASE`: the first address of the program image (R6, R61). -/
abbrev progBase : Nat := 0x200

/-- `RESET_PC`: the program counter after reset (R6, R38). -/
abbrev resetPc : Word := 0x200

/-- `MAX_IMAGE`: the greatest image length in bytes, 4096 − 0x200 (R6, R225). -/
abbrev maxImage : Nat := 3584

/-- `STACK_MAX_DEPTH`: the greatest number of return addresses held at once (R6, R26, R222). -/
abbrev stackMaxDepth : Nat := 15

/-- `FB_W`: the framebuffer's width in pixels (R6, R31). -/
abbrev fbWidth : Nat := 64

/-- `FB_H`: the framebuffer's height in pixels (R6, R31). -/
abbrev fbHeight : Nat := 32

/-- `GLYPH_STRIDE`: bytes per glyph (R6, R62). -/
abbrev glyphStride : Nat := 5

/-- `GLYPH_BYTES`: the size of the glyph table (R6, R62). -/
abbrev glyphBytes : Nat := 80

/-- `GLYPH_BASE`: the address of the first glyph byte, OPEN (R6, R61, decision D7). A free value: no body. Its type
keeps the one limit the spec sets, `GLYPH_BASE + 80 <= 0x200`, that is, at most 432. -/
opaque glyphBase : Fin 433

/-- `GLYPH_TABLE`: the 80 glyph bytes, OPEN (R6, R62, decision D8). A free value: no body. -/
opaque glyphTable : Vector Byte glyphBytes

/-- `RandByte()`: draw number `k` of the random source, about which nothing may be assumed (R8, R33, R183, decision
D16). A free value: no body. -/
opaque randByte : Nat → Byte

/-- The spec's default of `GLYPH_BASE`, given for tests only (R6). The machine does not use it. -/
def defaultGlyphBase : Fin 433 := 0x050

/-- The five bytes of one glyph, top row first (R62). -/
def glyphRow (a b c d e : Byte) : Vector Byte glyphStride := #v[a, b, c, d, e]

/-- The spec's default of `GLYPH_TABLE`, given for tests only (the table of R62). The machine does not use it. -/
def defaultGlyphTable : Vector Byte glyphBytes :=
  glyphRow 0xF0 0x90 0x90 0x90 0xF0 ++ glyphRow 0x20 0x60 0x20 0x20 0x70 ++
  glyphRow 0xF0 0x10 0xF0 0x80 0xF0 ++ glyphRow 0xF0 0x10 0xF0 0x10 0xF0 ++
  glyphRow 0x90 0x90 0xF0 0x10 0x10 ++ glyphRow 0xF0 0x80 0xF0 0x10 0xF0 ++
  glyphRow 0xF0 0x80 0xF0 0x90 0xF0 ++ glyphRow 0xF0 0x10 0x20 0x40 0x40 ++
  glyphRow 0xF0 0x90 0xF0 0x90 0xF0 ++ glyphRow 0xF0 0x90 0xF0 0x10 0xF0 ++
  glyphRow 0xF0 0x90 0xF0 0x90 0x90 ++ glyphRow 0xE0 0x90 0xE0 0x90 0xE0 ++
  glyphRow 0xF0 0x80 0x80 0x80 0xF0 ++ glyphRow 0xE0 0x90 0x90 0x90 0xE0 ++
  glyphRow 0xF0 0x80 0xF0 0x80 0xF0 ++ glyphRow 0xF0 0x80 0xF0 0x80 0x80

end Sys2Proof.Config
end

