-- ==== Sys2Proof/Machine/State.lean ====
section
/-!
DEFINITION. The state of the machine as plain data, all of it (spec/10_state.md R20), and its value after reset
(R38, spec/70_reset_and_hazards.md R251). Every field but `draws` is the spec's; `draws` is the model's own, for the
hidden state of the random source (R33, notes/assumptions/4.md).
-/

namespace Sys2Proof.Machine

/-- The causes the fault latch can hold (R29, R221). Both are recorded in `State.fault` by a NEXT state, since the
spec describes their whole effect (R127, R227): no step answers the outcome `fault` (notes/assumptions/1.md). -/
inductive Fault where
  /-- Code 1. Raised by CALL when 15 return addresses are held (R141, R222). Safe: the spec's smaller bound. -/
  | stackOverflow
  /-- Code 2. Raised by RET when no return address is held (R142, R223). Safe: nothing else happens. -/
  | stackUnderflow
  deriving DecidableEq, Repr

/-- Why an action has no meaning. No instruction ends in one of these. -/
inductive Refusal where
  /-- Raised by an arm of `exec` whose instruction has no meaning yet; no arm is such. Safe. -/
  | notModelled (mnemonic : String)
  /-- `ImageTooLarge`: raised by the `load` port for more than 3584 bytes (R225). Safe: nothing is written. -/
  | imageTooLarge
  /-- Raised by the host's session for an action the host must not do there: a `load` after a `load` or after the
  first `step` (R36, R237). Safe: such a host has no move. -/
  | hostOutOfTurn
  deriving DecidableEq, Repr

/-- Memory as the cells that differ from their reset contents, by rising address. -/
abbrev Memory := List Host.Cell

/-- The framebuffer: row `y` from the top, column `x` from the left, on or off (R31). -/
abbrev Framebuffer := Vector (Vector Bool Config.fbWidth) Config.fbHeight

/-- The machine's state (R20). -/
structure State where
  /-- `V[0..15]`; `V[15]` is `VF` (R21, R22). -/
  v : Vector Byte 16
  /-- `Mem[0..4095]` (R34, R60). -/
  mem : Memory
  /-- `PC` (R23). -/
  pc : Word
  /-- `I` (R24). -/
  i : Word
  /-- `Stack[0..15]` (R25). -/
  stack : Vector Word 16
  /-- `SP`, the number of return addresses held (R26). -/
  sp : Fin 16
  /-- `DT` (R27). -/
  dt : Byte
  /-- `ST` (R28). -/
  st : Byte
  /-- `Key[0..15]`, `true` for pressed, written by the host alone (R30). -/
  keys : Vector Bool 16
  /-- `FB[0..63, 0..31]` (R31). -/
  fb : Framebuffer
  /-- `IR`, the word fetched last (R32). -/
  ir : Word
  /-- `FAULT`, the sticky latch; `none` is the spec's `None` (R29). -/
  fault : Option Fault
  /-- The model's own: how many draws the random source has given (R33). -/
  draws : Nat
  deriving DecidableEq, Repr

/-- The machine right after reset (R38). `ir` and `draws` have no reset value in the spec: `ir` is 0
(notes/assumptions/5.md), `draws` is 0 (notes/assumptions/4.md). Memory lists nothing: every cell holds its reset
contents. -/
def State.reset : State where
  v := Vector.replicate 16 0
  mem := []
  pc := Config.resetPc
  i := 0
  stack := Vector.replicate 16 0
  sp := 0
  dt := 0
  st := 0
  keys := Vector.replicate 16 false
  fb := Vector.replicate Config.fbHeight (Vector.replicate Config.fbWidth false)
  ir := 0
  fault := none
  draws := 0

end Sys2Proof.Machine
end

