-- ==== Sys2Proof/Machine/Ops.lean ====
section
/-!
DEFINITION. The named operations over memory and registers that every meaning is written with, taking a fault, and
the parts of a Step around the handler (spec/40_cycle_and_dispatch.md R120).
-/

namespace Sys2Proof.Machine

/-! ### Memory (spec/20_memory.md) -/

/-- The cell an address selects: every address is reduced modulo 4096 (R66). -/
def memCell (a : Nat) : Nat := a % Config.memSize

/-- What a cell of the reserved region holds at reset, for a given glyph base and table (R38, R61, R62). -/
def glyphCell (base : Nat) (table : Vector Byte Config.glyphBytes) (a : Nat) : Byte :=
  if h : base ≤ a ∧ a < base + Config.glyphBytes then table[a - base] else 0

/-- What an unlisted cell reads as: its reset contents (R38), zero outside the glyph table. -/
def initialByte (a : Nat) : Byte :=
  if a < Config.progBase then glyphCell Config.glyphBase Config.glyphTable a else 0

/-- The contents of cell `a`. -/
def lookupByte (m : Memory) (a : Nat) : Byte := (m.lookup a).getD (initialByte a)

/-- Memory with no entry for cell `a`. -/
def eraseByte (m : Memory) (a : Nat) : Memory := m.filter (fun c => c.1 != a)

/-- Memory with an entry for cell `a` put where its address belongs. -/
def insertByte (a : Nat) (b : Byte) : Memory → Memory
  | [] => [(a, b)]
  | c :: m => if a < c.1 then (a, b) :: c :: m else c :: insertByte a b m

/-- Memory with `b` in cell `a`, in canonical form: the reset contents are not listed. -/
def storeByte (m : Memory) (a : Nat) (b : Byte) : Memory :=
  if b = initialByte a then eraseByte m a else insertByte a b (eraseByte m a)

/-- The canonical form: addresses strictly rising and inside memory, no entry equal to the reset contents. -/
abbrev Memory.wf (m : Memory) : Prop :=
  m.Pairwise (fun c d => c.1 < d.1) ∧ ∀ c ∈ m, c.1 < Config.memSize ∧ c.2 ≠ initialByte c.1

/-- `MemRead(a, 1)` (R8). -/
def memRead (m : Memory) (a : Nat) : Byte := lookupByte m (memCell a)

/-- `MemWrite(a, 1, b)` (R8); no cell is protected (R67). -/
def memWrite (m : Memory) (a : Nat) (b : Byte) : Memory := storeByte m (memCell a) b

/-- The bytes `bs` written to `a`, `a + 1`, ... in this order, each address wrapping on its own (R63, R66). -/
def memWriteBytes (m : Memory) (a : Nat) : List Byte → Memory
  | [] => m
  | b :: bs => memWriteBytes (memWrite m a b) (a + 1) bs

/-- The byte the state holds at an address. -/
def State.read (s : State) (a : Nat) : Byte := memRead s.mem a

/-- The state with bytes written from address `a` on. -/
def State.writeBytes (s : State) (a : Nat) (bs : List Byte) : State := { s with mem := memWriteBytes s.mem a bs }

/-! ### Registers (spec/10_state.md) -/

/-- `V[x]` (R21). -/
def State.reg (s : State) (x : RegIdx) : Byte := s.v.get x

/-- `V[x] <- b` (R21). -/
def State.setReg (s : State) (x : RegIdx) (b : Byte) : State := { s with v := s.v.set x b x.isLt }

/-- All sixteen registers at once (R212). -/
def State.setRegs (s : State) (v : Vector Byte 16) : State := { s with v := v }

/-- `PC <- a` (R23). -/
def State.setPc (s : State) (a : Word) : State := { s with pc := a }

/-- `I <- a` (R24). -/
def State.setI (s : State) (a : Word) : State := { s with i := a }

/-- `DT <- b` (R27). -/
def State.setDt (s : State) (b : Byte) : State := { s with dt := b }

/-- `ST <- b` (R28). -/
def State.setSt (s : State) (b : Byte) : State := { s with st := b }

/-- The additional 2 of a taken skip, modulo 2^16 (R23; spec/42_conditional_skip.md). -/
def State.skipIf (s : State) (taken : Bool) : State := if taken then s.setPc (s.pc + 2) else s

/-! ### Keys (R30) -/

/-- `Key[k]`. -/
def State.key (s : State) (k : Fin 16) : Bool := s.keys.get k

/-- The pressed key of least index, if any key is pressed (R203, decision D14). -/
def State.lowestKey (s : State) : Option (Fin 16) := (List.finRange 16).find? s.key

/-! ### Framebuffer (R31, R190) -/

/-- `FB[x, y]` of a framebuffer. -/
def getPixel (fb : Framebuffer) (x : Fin Config.fbWidth) (y : Fin Config.fbHeight) : Bool := (fb.get y).get x

/-- `FB[x, y] <- FB[x, y] xor 1`. -/
def flipPixel (fb : Framebuffer) (x : Fin Config.fbWidth) (y : Fin Config.fbHeight) : Framebuffer :=
  fb.set y ((fb.get y).set x (!getPixel fb x y) x.isLt) y.isLt

/-- All pixels off. -/
def blankScreen : Framebuffer := Vector.replicate Config.fbHeight (Vector.replicate Config.fbWidth false)

/-- `FB[x, y]` of a state. -/
def State.pixel (s : State) (x : Fin Config.fbWidth) (y : Fin Config.fbHeight) : Bool := getPixel s.fb x y

/-- The state with another framebuffer. -/
def State.setFb (s : State) (fb : Framebuffer) : State := { s with fb := fb }

/-! ### Return stack (R25, R26) -/

/-- `Stack[k]`. -/
def State.slot (s : State) (k : Fin 16) : Word := s.stack.get k

/-- `Stack[SP] <- PC; SP <- SP + 1`. -/
def State.pushReturn (s : State) : State :=
  { s with stack := s.stack.set s.sp s.pc s.sp.isLt, sp := s.sp + 1 }

/-- `SP <- SP - 1; PC <- Stack[SP]`; the popped slot keeps its value (R25, decision D23). -/
def State.popReturn (s : State) : State := { s with sp := s.sp - 1, pc := s.slot (s.sp - 1) }

/-! ### Random source (R33) -/

/-- The byte the next draw gives. -/
def State.nextDraw (s : State) : Byte := Config.randByte s.draws

/-- The state after one draw is consumed. -/
def State.consumeDraw (s : State) : State := { s with draws := s.draws + 1 }

/-! ### Faults (spec/60_exceptions.md) -/

/-- `raise Fault(c)` inside a handler, where `PC` is the instruction's address + 2: the latch is set, `PC` is put back
and nothing else is changed (R227). -/
def State.takeFault (s : State) (c : Fault) : State := { s with pc := s.pc - 2, fault := some c }

/-! ### The Step around the handler (R120 to R127) -/

/-- The word at `PC`, high byte first, each address wrapping on its own (R63, R66, R121). -/
def State.fetchWord (s : State) : Word := joinBytes (s.read s.pc.toNat) (s.read (s.pc + 1).toNat)

/-- The state the handler starts in: `IR` holds the fetched word and `PC` is advanced by 2 (R121, R122). -/
def State.fetched (s : State) : State := { s with ir := s.fetchWord, pc := s.pc + 2 }

/-- One tick of one timer: down by 1, stopping at 0 (R27, R28). -/
def tickTimer (t : Byte) : Byte := if t = 0 then 0 else t - 1

/-- The tick of both timers (R124). -/
def State.tick (s : State) : State := { s with dt := tickTimer s.dt, st := tickTimer s.st }

/-- The end of a Step whose state before it was `before`: the tick if the handler raised no fault (R124); else every
change of the Step is discarded and only the latch is set (R127). -/
def finishStep (before : State) : Host.Outcome State Fault Refusal → Host.Outcome State Fault Refusal
  | .next t =>
    match t.fault with
    | none => .next t.tick
    | some c => .next { before with fault := some c }
  | .fault c => .fault c
  | .refused r => .refused r

/-- The state with a word stored where the next Step fetches it, and a clear latch, without which no Step fetches
(R126). -/
def State.placeWord (s : State) (w : Word) : State :=
  { s.writeBytes s.pc.toNat (wordBytes w) with fault := none }

end Sys2Proof.Machine
end

