-- ==== Sys2Proof/Machine/Flags.lean ====
section
/-!
DEFINITION. Every flag computation of the spec (spec/10_state.md R22, spec/43_alu.md R171): `VF` is the only flag,
each writer writes 0 or 1, the flag is computed from the operands as they were before any write.
-/

namespace Sys2Proof.Machine

/-- The byte a flag is written as: always 0 or 1 (R22). -/
def flagByte (b : Bool) : Byte := if b then 1 else 0

/-- ADD: 1 if the exact sum exceeds 255 (R166). -/
def carryFlag (a b : Byte) : Byte := flagByte (decide (a.toNat + b.toNat > 255))

/-- SUB and SUBN: 1 if no borrow occurs, that is, minuend ≥ subtrahend (R167, R168). -/
def noBorrowFlag (minuend subtrahend : Byte) : Byte := flagByte (decide (subtrahend.toNat ≤ minuend.toNat))

/-- SHR: the old bit 0 (R169). -/
def bit0Flag (a : Byte) : Byte := flagByte (a.getLsbD 0)

/-- SHL: the old bit 7 (R170). -/
def bit7Flag (a : Byte) : Byte := flagByte (a.getLsbD 7)

/-- The flag is written first and the result last, so that with `x` = 15 the result stays (R9, R22, R171, decision
D12). -/
def State.setFlagged (s : State) (x : RegIdx) (flag result : Byte) : State := (s.setReg flagIdx flag).setReg x result

end Sys2Proof.Machine
end

