-- ==== Sys2Proof/Machine/Alu.lean ====
section
/-!
DEFINITION. Register load, logic, arithmetic and shifts (spec/43_alu.md R160 to R171). `PC` is not touched. Operands
are read before any write (R9).
-/

namespace Sys2Proof.Machine

/-- LD Vx, kk (R160). -/
def execLdImm (x : RegIdx) (kk : Byte) (s : State) : Host.Outcome State Fault Refusal := .next (s.setReg x kk)

/-- ADD Vx, kk (R161): no flag. -/
def execAddImm (x : RegIdx) (kk : Byte) (s : State) : Host.Outcome State Fault Refusal :=
  .next (s.setReg x (s.reg x + kk))

/-- LD Vx, Vy (R162). -/
def execLdReg (x y : RegIdx) (s : State) : Host.Outcome State Fault Refusal := .next (s.setReg x (s.reg y))

/-- OR Vx, Vy (R163): no flag. -/
def execOrReg (x y : RegIdx) (s : State) : Host.Outcome State Fault Refusal := .next (s.setReg x (s.reg x ||| s.reg y))

/-- AND Vx, Vy (R164): no flag. -/
def execAndReg (x y : RegIdx) (s : State) : Host.Outcome State Fault Refusal := .next (s.setReg x (s.reg x &&& s.reg y))

/-- XOR Vx, Vy (R165): no flag. -/
def execXorReg (x y : RegIdx) (s : State) : Host.Outcome State Fault Refusal := .next (s.setReg x (s.reg x ^^^ s.reg y))

/-- ADD Vx, Vy (R166). -/
def execAddReg (x y : RegIdx) (s : State) : Host.Outcome State Fault Refusal :=
  .next (s.setFlagged x (carryFlag (s.reg x) (s.reg y)) (s.reg x + s.reg y))

/-- SUB Vx, Vy (R167): `Vx − Vy`. -/
def execSubReg (x y : RegIdx) (s : State) : Host.Outcome State Fault Refusal :=
  .next (s.setFlagged x (noBorrowFlag (s.reg x) (s.reg y)) (s.reg x - s.reg y))

/-- SUBN Vx, Vy (R168): `Vy − Vx` into `Vx`. -/
def execSubnReg (x y : RegIdx) (s : State) : Host.Outcome State Fault Refusal :=
  .next (s.setFlagged x (noBorrowFlag (s.reg y) (s.reg x)) (s.reg y - s.reg x))

/-- SHR Vx (R169): a zero enters at bit 7. -/
def execShr (x : RegIdx) (s : State) : Host.Outcome State Fault Refusal :=
  .next (s.setFlagged x (bit0Flag (s.reg x)) (s.reg x >>> 1))

/-- SHL Vx (R170): a zero enters at bit 0. -/
def execShl (x : RegIdx) (s : State) : Host.Outcome State Fault Refusal :=
  .next (s.setFlagged x (bit7Flag (s.reg x)) (s.reg x <<< 1))

end Sys2Proof.Machine
end

