-- ==== Sys2Proof/Machine/Operands.lean ====
section
/-!
DEFINITION. The operand forms (spec/30_encoding.md R92, R93) beyond a plain register or byte: the widened address,
the low nibble of a register, the glyph address, the effective data address, the decimal digits, the register block
and the pixel coordinates.
-/

namespace Sys2Proof.Machine

/-- `zext_16(nnn)` (R93). -/
def immAddr (nnn : Addr12) : Word := nnn.setWidth 16

/-- `zext_16` of a register's value (R143, R181). -/
def zext16 (b : Byte) : Word := b.setWidth 16

/-- Bits [3:0] of a register's value: the key index (R154, decision D13), the glyph digit (R182). -/
def lowNibble (b : Byte) : Fin 16 := (b.extractLsb' 0 4).toFin

/-- `base + 5 × d`: the address of the glyph of digit `d` (R62, R182). -/
def glyphAddr (base : Nat) (d : Fin 16) : Word := BitVec.ofNat 16 (base + Config.glyphStride * d)

/-- The address `I + k` before it is reduced modulo 4096 (R65, R66). -/
def State.dataAddr (s : State) (k : Nat) : Nat := s.i.toNat + k

/-- The hundreds, tens and ones of a value, one binary digit a byte (R210). -/
def bcdDigits (v : Byte) : List Byte :=
  [BitVec.ofNat 8 (v.toNat / 100), BitVec.ofNat 8 (v.toNat / 10 % 10), BitVec.ofNat 8 (v.toNat % 10)]

/-- `V[0], ..., V[x]` (R211). -/
def State.regBlock (s : State) (x : RegIdx) : List Byte := s.v.toList.take (x.val + 1)

/-- The registers with `V[0..x]` loaded from `Mem[I..I+x]` (R212). -/
def State.loadedBlock (s : State) (x : RegIdx) : Vector Byte 16 :=
  Vector.ofFn fun k => if k ≤ x then s.read (s.dataAddr k) else s.reg k

/-- The column `(x0 + c) mod 64` of a sprite pixel, `x0` the register's value mod 64 (R192). -/
def spriteColumn (vx : Byte) (c : Nat) : Fin Config.fbWidth := Fin.ofNat 64 (vx.toNat % 64 + c)

/-- The row `(y0 + r) mod 32` of a sprite pixel, `y0` the register's value mod 32 (R192). -/
def spriteRow (vy : Byte) (r : Nat) : Fin Config.fbHeight := Fin.ofNat 32 (vy.toNat % 32 + r)

end Sys2Proof.Machine
end

