-- ==== Sys2Proof/Machine/Block.lean ====
section
/-!
DEFINITION. The memory instructions (spec/47_memory_ops.md R210 to R212). `I` is never changed, no address is out of
range, no region is protected.
-/

namespace Sys2Proof.Machine

/-- LD B, Vx (R210). -/
def execLdB (x : RegIdx) (s : State) : Host.Outcome State Fault Refusal :=
  .next (s.writeBytes (s.dataAddr 0) (bcdDigits (s.reg x)))

/-- LD [I], Vx (R211). -/
def execLdMemVx (x : RegIdx) (s : State) : Host.Outcome State Fault Refusal :=
  .next (s.writeBytes (s.dataAddr 0) (s.regBlock x))

/-- LD Vx, [I] (R212). -/
def execLdVxMem (x : RegIdx) (s : State) : Host.Outcome State Fault Refusal := .next (s.setRegs (s.loadedBlock x))

end Sys2Proof.Machine
end

