-- ==== Sys2Proof/Machine/ControlFlow.lean ====
section
/-!
DEFINITION. Control flow (spec/41_control_flow.md R140 to R143) and the no-op handler (spec/40_cycle_and_dispatch.md
R125). In every meaning `PC` on entry is the instruction's address + 2 (R122).
-/

namespace Sys2Proof.Machine

/-- NOP (R125). -/
def execNop (s : State) : Host.Outcome State Fault Refusal := .next s

/-- JP nnn (R140). -/
def execJp (nnn : Addr12) (s : State) : Host.Outcome State Fault Refusal := .next (s.setPc (immAddr nnn))

/-- CALL nnn (R141); the 16th nested call takes the fault StackOverflow (R222). -/
def execCall (nnn : Addr12) (s : State) : Host.Outcome State Fault Refusal :=
  if s.sp.val = Config.stackMaxDepth then .next (s.takeFault .stackOverflow)
  else .next (s.pushReturn.setPc (immAddr nnn))

/-- RET (R142); with an empty stack it takes the fault StackUnderflow (R223). -/
def execRet (s : State) : Host.Outcome State Fault Refusal :=
  if s.sp.val = 0 then .next (s.takeFault .stackUnderflow) else .next s.popReturn

/-- JP V0, nnn (R143). -/
def execJpV0 (nnn : Addr12) (s : State) : Host.Outcome State Fault Refusal :=
  .next (s.setPc (immAddr nnn + zext16 (s.reg 0)))

end Sys2Proof.Machine
end

