-- ==== Sys2Proof/Machine/Display.lean ====
section
/-!
DEFINITION. Clear screen and the sprite blit (spec/45_display.md R190 to R192).
-/

namespace Sys2Proof.Machine

/-- A draw under way: the framebuffer so far, and whether a lit pixel has been erased. -/
structure Blit where
  fb : Framebuffer
  hit : Bool
  deriving DecidableEq, Repr

/-- One sprite bit that is 1: a lit pixel is a collision; the pixel is flipped (R192). -/
def plot (x : Fin Config.fbWidth) (y : Fin Config.fbHeight) (d : Blit) : Blit where
  fb := flipPixel d.fb x y
  hit := d.hit || getPixel d.fb x y

/-- One sprite row, bit 7 of `b` leftmost (R192). -/
def blitRow (vx : Byte) (y : Fin Config.fbHeight) (b : Byte) (d : Blit) : Blit :=
  (List.range 8).foldl (fun d c => if b.getLsbD (7 - c) then plot (spriteColumn vx c) y d else d) d

/-- The first `n` rows of the sprite at `I`, drawn at the coordinates in `vx`, `vy` (R192). -/
def State.blit (s : State) (vx vy : Byte) (n : Nat) : Blit :=
  (List.range n).foldl (fun d r => blitRow vx (spriteRow vy r) (s.read (s.dataAddr r)) d) { fb := s.fb, hit := false }

/-- CLS (R191): `VF` is not changed. -/
def execCls (s : State) : Host.Outcome State Fault Refusal := .next (s.setFb blankScreen)

/-- DRW Vx, Vy, n (R192): the coordinates are read before `VF` is written, which is always written. -/
def execDrw (x y : RegIdx) (n : Fin 16) (s : State) : Host.Outcome State Fault Refusal :=
  let d := s.blit (s.reg x) (s.reg y) n
  .next ((s.setReg flagIdx (flagByte d.hit)).setFb d.fb)

end Sys2Proof.Machine
end

