-- ==== Sys2Proof/Machine/Index.lean ====
section
/-!
DEFINITION. The index register and the random byte (spec/44_index_random.md R180 to R183). No flag is written.
-/

namespace Sys2Proof.Machine

/-- LD I, nnn (R180). -/
def execLdI (nnn : Addr12) (s : State) : Host.Outcome State Fault Refusal := .next (s.setI (immAddr nnn))

/-- ADD I, Vx (R181): modulo 2^16, no flag. -/
def execAddI (x : RegIdx) (s : State) : Host.Outcome State Fault Refusal := .next (s.setI (s.i + zext16 (s.reg x)))

/-- LD F, Vx (R182): an address only, no memory is read. -/
def execLdF (x : RegIdx) (s : State) : Host.Outcome State Fault Refusal :=
  .next (s.setI (glyphAddr Config.glyphBase (lowNibble (s.reg x))))

/-- RND Vx, kk (R183): one draw, masked. -/
def execRnd (x : RegIdx) (kk : Byte) (s : State) : Host.Outcome State Fault Refusal :=
  .next (s.consumeDraw.setReg x (s.nextDraw &&& kk))

end Sys2Proof.Machine
end

