-- ==== Sys2Proof/Machine/Timers.lean ====
section
/-!
DEFINITION. The timers and the key wait (spec/46_timers_keys.md R200 to R203). The tick at the end of the Step (R124)
is not part of a meaning.
-/

namespace Sys2Proof.Machine

/-- LD Vx, DT (R200): the value before the tick. -/
def execLdVxDt (x : RegIdx) (s : State) : Host.Outcome State Fault Refusal := .next (s.setReg x s.dt)

/-- LD DT, Vx (R201). -/
def execLdDtVx (x : RegIdx) (s : State) : Host.Outcome State Fault Refusal := .next (s.setDt (s.reg x))

/-- LD ST, Vx (R202). -/
def execLdStVx (x : RegIdx) (s : State) : Host.Outcome State Fault Refusal := .next (s.setSt (s.reg x))

/-- LD Vx, K (R203): the lowest pressed key, or `PC` back to this instruction. -/
def execLdVxK (x : RegIdx) (s : State) : Host.Outcome State Fault Refusal :=
  match s.lowestKey with
  | some k => .next (s.setReg x (BitVec.ofNat 8 k))
  | none => .next (s.setPc (s.pc - 2))

end Sys2Proof.Machine
end

