-- ==== Sys2Proof/Machine/Step.lean ====
section
/-!
DEFINITION. One Step (spec/40_cycle_and_dispatch.md R120).
-/

namespace Sys2Proof.Machine

/-- `Step()` (R120): nothing under a latched fault (R126); else fetch, advance `PC`, run one handler, and tick or
discard. -/
def step (s : State) : Host.Outcome State Fault Refusal :=
  match s.fault with
  | some _ => .next s
  | none => finishStep s (exec (decodeWord s.fetchWord) s.fetched)

/-- The state with a table word stored at `PC`, so that the very next step fetches and runs it
(notes/assumptions/19.md). -/
def State.withFetchWord (s : State) (nbits w : Nat) : State := s.placeWord (tableWord nbits w)

end Sys2Proof.Machine
end

