-- ==== Sys2Proof/Machine/HostPorts.lean ====
section
/-!
DEFINITION. The block's boundary toward its host (spec/10_state.md R36, R37; spec/60_exceptions.md R225, R237;
spec/70_reset_and_hazards.md R250 to R253): what the host may do between two Steps, and what it reads there.
-/

namespace Sys2Proof.Machine

/-! ### Input ports -/

/-- The `load` port (R225, R252): the image to 0x200 on, or refused as a whole. -/
def State.loadImage (s : State) (bytes : List Byte) : Host.Outcome State Fault Refusal :=
  if bytes.length ≤ Config.maxImage then .next (s.writeBytes Config.progBase bytes) else .refused .imageTooLarge

/-- The `keys` port (R30): all sixteen flags at once. -/
def State.setKeys (s : State) (keys : Vector Bool 16) : State := { s with keys := keys }

/-! ### Output ports, read between Steps -/

/-- The `fb` port: element `y × 64 + x` is `FB[x, y]` (R31, R37, decision D19). -/
def State.fbPort (s : State) : Vector Bool 2048 :=
  Vector.ofFn fun e => s.pixel (Fin.ofNat 64 (e.val % 64)) (Fin.ofNat 32 (e.val / 64))

/-- The `dt` port (R27, R37). -/
def State.dtPort (s : State) : Byte := s.dt

/-- The `st` port (R28, R37): nonzero asks the host for sound. -/
def State.stPort (s : State) : Byte := s.st

/-- The code of a cause (R221, decision D24). -/
def faultCode : Option Fault → Nat
  | none => 0
  | some .stackOverflow => 1
  | some .stackUnderflow => 2

/-- The `fault` port (R29, R37). -/
def State.faultPort (s : State) : Nat := faultCode s.fault

/-! ### The host's protocol -/

/-- How far the host's protocol has come (R36, R237, R253). -/
inductive Phase where
  /-- After `reset`, before any `load` or `step`. -/
  | fresh
  /-- After the one `load`, before the first `step`. -/
  | loaded
  /-- After the first `step`. -/
  | running
  deriving DecidableEq, Repr

/-- The block together with the host's place in its protocol. -/
structure Session where
  phase : Phase
  machine : State
  deriving DecidableEq, Repr

/-- The session of a block just constructed. -/
def Session.start : Session := { phase := .fresh, machine := State.reset }

/-- What the host can do to the block (R37). -/
inductive HostAction where
  /-- Start a new run (R250). -/
  | reset
  /-- Load a program image (R252). -/
  | load (bytes : List Byte)
  /-- Overwrite the key flags (R30). -/
  | keys (flags : Vector Bool 16)
  /-- Request one Step (R120). -/
  | step
  deriving DecidableEq, Repr

/-- The same outcome, in a session whose protocol has come to `phase`. -/
def inPhase (phase : Phase) : Host.Outcome State Fault Refusal → Host.Outcome Session Fault Refusal
  | .next t => .next { phase := phase, machine := t }
  | .fault c => .fault c
  | .refused r => .refused r

/-- One host action between two Steps (R237). A `reset` carries over nothing but the random source (R250), which goes
on from where it is; a `load` has a move only once and before the first `step`. -/
def hostAct (a : HostAction) (c : Session) : Host.Outcome Session Fault Refusal :=
  match a with
  | .reset => .next { phase := .fresh, machine := { State.reset with draws := c.machine.draws } }
  | .load bytes =>
    match c.phase with
    | .fresh => inPhase .loaded (c.machine.loadImage bytes)
    | .loaded | .running => .refused .hostOutOfTurn
  | .keys flags => .next { c with machine := c.machine.setKeys flags }
  | .step => inPhase .running (step c.machine)

end Sys2Proof.Machine
end

