-- ==== Sys2Proof/Safety.lean ====
section
/-!
DEFINITION. The terms claims are stated in: what an action may change and what it keeps, a run that is safe, the
parked state of spec/70_reset_and_hazards.md R264, and which instructions write which state
(spec/10_state.md R39).
-/

namespace Sys2Proof.Machine

/-! ### Frames -/

/-- The parts of the state a frame speaks of, `regs` and `stack` and `mem` and `fb` each as a whole. -/
inductive Part where
  | regs | mem | pc | i | stack | sp | dt | st | keys | fb | ir | fault | draws
  deriving DecidableEq, Repr

/-- A part reads the same before and after. Memory is read byte by byte, the framebuffer pixel by pixel. -/
def PartKept (s t : State) : Part → Prop
  | .regs => ∀ r, t.reg r = s.reg r
  | .mem => ∀ a, t.read a = s.read a
  | .pc => t.pc = s.pc
  | .i => t.i = s.i
  | .stack => ∀ k, t.slot k = s.slot k
  | .sp => t.sp = s.sp
  | .dt => t.dt = s.dt
  | .st => t.st = s.st
  | .keys => ∀ k, t.key k = s.key k
  | .fb => ∀ x y, t.pixel x y = s.pixel x y
  | .ir => t.ir = s.ir
  | .fault => t.fault = s.fault
  | .draws => t.draws = s.draws

/-- Everything but the listed parts reads the same before and after. -/
def KeptBut (parts : List Part) (s t : State) : Prop := ∀ p, p ∉ parts → PartKept s t p

/-- Every register but the listed ones reads the same before and after. -/
def RegsKeptBut (xs : List RegIdx) (s t : State) : Prop := ∀ r, r ∉ xs → t.reg r = s.reg r

/-- Every byte but those in the cells of `a`, ..., `a + n - 1` reads the same before and after. -/
def MemKeptBut (a n : Nat) (s t : State) : Prop :=
  ∀ b, (∀ k < n, memCell b ≠ memCell (a + k)) → t.read b = s.read b

/-! ### Sprites (R192) -/

/-- The pixel `(px, py)` is under a 1 bit of the `n`-row sprite at `I`, drawn at the coordinates in `vx`, `vy`: some
row `r < n` and column `c < 8` of the sprite land on it modulo the screen, and bit `7 - c` of that row is 1. -/
def SpriteCovers (s : State) (vx vy : Byte) (n : Nat) (px : Fin Config.fbWidth) (py : Fin Config.fbHeight) : Prop :=
  ∃ r < n, ∃ c < 8, (s.read (s.i.toNat + r)).getLsbD (7 - c) = true ∧
    px.val = (vx.toNat % 64 + c) % 64 ∧ py.val = (vy.toNat % 32 + r) % 32

/-! ### Runs -/

/-- A run is safe while no fault is latched (R128: the ready state). -/
abbrev State.ready (s : State) : Prop := s.fault = none

/-- A self-jump at `PC`: the word there is `1nnn` with `nnn` = `PC` (R105, R264). -/
def State.atSelfJump (s : State) : Prop := ∃ nnn, decodeWord s.fetchWord = .jp nnn ∧ immAddr nnn = s.pc

/-- Parked (R264): no fault, a self-jump at `PC`, both timers 0. -/
def State.parked (s : State) : Prop := s.ready ∧ s.atSelfJump ∧ s.dt = 0 ∧ s.st = 0

/-! ### Who writes what (R39) -/

/-- The registers an instruction may write: its destination, the block it loads, and `VF` where it is a flag. -/
def writesReg : Instr → RegIdx → Prop
  | .ldImm x _, r | .addImm x _, r | .ldReg x _, r | .orReg x _, r | .andReg x _, r | .xorReg x _, r | .rnd x _, r
  | .ldVxDt x, r | .ldVxK x, r => r = x
  | .addReg x _, r | .subReg x _, r | .subnReg x _, r | .shr x _, r | .shl x _, r => r = x ∨ r = flagIdx
  | .drw _ _ _, r => r = flagIdx
  | .ldVxMem x, r => r ≤ x
  | .cls _, _ | .ret _, _ | .jp _, _ | .call _, _ | .seImm _ _, _ | .sneImm _ _, _ | .seReg _ _ _, _
  | .sneReg _ _ _, _ | .ldI _, _ | .jpV0 _, _ | .skp _ _, _ | .sknp _ _, _ | .ldDtVx _, _ | .ldStVx _, _ | .addI _, _
  | .ldF _, _ | .ldB _, _ | .ldMemVx _, _ | .nop _, _ => False

/-- The instructions that set `PC` outright (R23: JP, CALL, RET, JP V0). -/
def jumps : Instr → Bool
  | .jp _ | .call _ | .ret _ | .jpV0 _ => true
  | .cls _ | .seImm _ _ | .sneImm _ _ | .seReg _ _ _ | .ldImm _ _ | .addImm _ _ | .ldReg _ _ | .orReg _ _
  | .andReg _ _ | .xorReg _ _ | .addReg _ _ | .subReg _ _ | .shr _ _ | .subnReg _ _ | .shl _ _ | .sneReg _ _ _
  | .ldI _ | .rnd _ _ | .drw _ _ _ | .skp _ _ | .sknp _ _ | .ldVxDt _ | .ldVxK _ | .ldDtVx _ | .ldStVx _ | .addI _
  | .ldF _ | .ldB _ | .ldMemVx _ | .ldVxMem _ | .nop _ => false

/-- The six conditional skips (R23, spec/42_conditional_skip.md). -/
def skips : Instr → Bool
  | .seImm _ _ | .sneImm _ _ | .seReg _ _ _ | .sneReg _ _ _ | .skp _ _ | .sknp _ _ => true
  | .cls _ | .ret _ | .jp _ | .call _ | .ldImm _ _ | .addImm _ _ | .ldReg _ _ | .orReg _ _ | .andReg _ _
  | .xorReg _ _ | .addReg _ _ | .subReg _ _ | .shr _ _ | .subnReg _ _ | .shl _ _ | .ldI _ | .jpV0 _ | .rnd _ _
  | .drw _ _ _ | .ldVxDt _ | .ldVxK _ | .ldDtVx _ | .ldStVx _ | .addI _ | .ldF _ | .ldB _ | .ldMemVx _ | .ldVxMem _
  | .nop _ => false

end Sys2Proof.Machine
end

