-- ==== Sys2Proof/Certificates/Slice0/Obligations.lean ====
section
/-!
DEFINITION. The statements for the provers. In statements about `exec`, the state is the one the handler starts in:
`PC` is the instruction's address + 2 (spec/40_cycle_and_dispatch.md R122), and the tick has not happened yet.
`KeptBut ps s t` says that all of the state but the parts `ps` reads the same in `t` as in `s`.
Where a statement says which words decode to an instruction, the class numbers and keys are the spec's, which it marks
as from general knowledge except those of classes 0 and E and `Fx0A` (notes/assumptions/7.md).
-/

open Sys2Proof Sys2Proof.Machine

/-! ### Encoding (spec/30_encoding.md) -/

/-- Decoding the word of any well-formed instruction gives it back, with every operand and every don't-care bit. -/
def Obligations.EncodeThenDecodeGivesInstructionBack : Prop :=
  ∀ i : Instr, i.wellFormed = true → decodeWord (encode i) = i

/-- Every one of the 65536 words decodes to a well-formed instruction whose word it is (R101: the decoder is total). -/
def Obligations.DecodeThenEncodeGivesWordBack : Prop :=
  ∀ w : Word, (decodeWord w).wellFormed = true ∧ encode (decodeWord w) = w

/-- The map of R103: a word lies in a row (of an instruction `i` other than the no-op) exactly when the decoder
selects that row. So the rows are disjoint, and the no-op is selected exactly when none matches. -/
def Obligations.DecoderSelectsTheMatchingRow : Prop :=
  ∀ (w : Word) (i : Instr), (∀ u, i ≠ .nop u) →
    (w &&& rowMask i = rowMatch i ↔
      rowMask (decodeWord w) = rowMask i ∧ rowMatch (decodeWord w) = rowMatch i)

/-- R95 and R97: classes 0 and E are decoded on the low nibble only. The zero word is CLS. -/
def Obligations.ClassesZeroAndEDecodeOnLowNibble : Prop :=
  (∀ w : Word, w.extractLsb' 12 4 = 0x0#4 → decodeWord w =
    if w.extractLsb' 0 4 = 0x0#4 then .cls (w.extractLsb' 4 8)
    else if w.extractLsb' 0 4 = 0xE#4 then .ret (w.extractLsb' 4 8)
    else .nop w) ∧
  decodeWord 0x0000#16 = .cls 0x00 ∧
  (∀ w : Word, w.extractLsb' 12 4 = 0xE#4 → decodeWord w =
    if w.extractLsb' 0 4 = 0x1#4 then .sknp (fieldX w) (w.extractLsb' 4 4)
    else if w.extractLsb' 0 4 = 0xE#4 then .skp (fieldX w) (w.extractLsb' 4 4)
    else .nop w)

/-- Class 8 on the low nibble, class F on the low byte. The keys are the spec's, from general knowledge (R96, R98,
notes/assumptions/7.md). -/
def Obligations.ClassesEightAndFDecodeOnTheirKeys : Prop :=
  (∀ w : Word, w.extractLsb' 12 4 = 0x8#4 → decodeWord w =
    if w.extractLsb' 0 4 = 0x0#4 then .ldReg (fieldX w) (fieldY w)
    else if w.extractLsb' 0 4 = 0x1#4 then .orReg (fieldX w) (fieldY w)
    else if w.extractLsb' 0 4 = 0x2#4 then .andReg (fieldX w) (fieldY w)
    else if w.extractLsb' 0 4 = 0x3#4 then .xorReg (fieldX w) (fieldY w)
    else if w.extractLsb' 0 4 = 0x4#4 then .addReg (fieldX w) (fieldY w)
    else if w.extractLsb' 0 4 = 0x5#4 then .subReg (fieldX w) (fieldY w)
    else if w.extractLsb' 0 4 = 0x6#4 then .shr (fieldX w) (w.extractLsb' 4 4)
    else if w.extractLsb' 0 4 = 0x7#4 then .subnReg (fieldX w) (fieldY w)
    else if w.extractLsb' 0 4 = 0xE#4 then .shl (fieldX w) (w.extractLsb' 4 4)
    else .nop w) ∧
  (∀ w : Word, w.extractLsb' 12 4 = 0xF#4 → decodeWord w =
    if w.extractLsb' 0 8 = 0x07#8 then .ldVxDt (fieldX w)
    else if w.extractLsb' 0 8 = 0x0A#8 then .ldVxK (fieldX w)
    else if w.extractLsb' 0 8 = 0x15#8 then .ldDtVx (fieldX w)
    else if w.extractLsb' 0 8 = 0x18#8 then .ldStVx (fieldX w)
    else if w.extractLsb' 0 8 = 0x1E#8 then .addI (fieldX w)
    else if w.extractLsb' 0 8 = 0x29#8 then .ldF (fieldX w)
    else if w.extractLsb' 0 8 = 0x33#8 then .ldB (fieldX w)
    else if w.extractLsb' 0 8 = 0x55#8 then .ldMemVx (fieldX w)
    else if w.extractLsb' 0 8 = 0x65#8 then .ldVxMem (fieldX w)
    else .nop w)

/-- R100 and R125: exactly the unassigned words are no-ops; the no-op handler does nothing, and a Step that runs it
advances `PC` by 2, ticks the timers and changes nothing else. -/
def Obligations.UnassignedWordsAreNoOps : Prop :=
  (∀ w : Word, unassigned w = true ↔ ∃ u, decodeWord w = .nop u) ∧
  (∀ (w : Word) (s : State), exec (.nop w) s = .next s) ∧
  ∀ s : State, s.ready → unassigned s.fetchWord = true →
    ∃ t, step s = .next t ∧ t.pc = s.pc + 2 ∧ t.dt.toNat = s.dt.toNat - 1 ∧ t.st.toNat = s.st.toNat - 1 ∧
      KeptBut [.pc, .ir, .dt, .st] s t

/-- Words spelled out in spec/95_test_vectors.md and in the instruction rules decode to what they stand for. -/
def Obligations.SpelledWordsDecode : Prop :=
  decodeWord 0x00E0 = .cls 0x0E ∧ decodeWord 0x00EE = .ret 0x0E ∧ decodeWord 0x1ABC = .jp 0xABC ∧
  decodeWord 0x332A = .seImm 3 0x2A ∧ decodeWord 0x8124 = .addReg 1 2 ∧ decodeWord 0x812E = .shl 1 2 ∧
  decodeWord 0xA2F0 = .ldI 0x2F0 ∧ decodeWord 0xD012 = .drw 0 1 2 ∧ decodeWord 0xE4A1 = .sknp 4 0xA ∧
  decodeWord 0xF50A = .ldVxK 5 ∧ decodeWord 0xF265 = .ldVxMem 2 ∧ decodeWord 0x8AB8 = .nop 0x8AB8

/-- R99: words that differ only in don't-care bits run the same: bits [11:4] of CLS and RET, bits [3:0] of classes 5
and 9, bits [7:4] of SHR, SHL, SKP and SKNP. -/
def Obligations.DontCareBitsHaveNoEffect : Prop :=
  ∀ (w w' : Word) (s : State),
    (w &&& 0xF00F#16 = w' &&& 0xF00F#16 → fieldOp w = 0x0#4 → fieldN w = 0x0#4 ∨ fieldN w = 0xE#4 →
      exec (decodeWord w) s = exec (decodeWord w') s) ∧
    (w &&& 0xFFF0#16 = w' &&& 0xFFF0#16 → fieldOp w = 0x5#4 ∨ fieldOp w = 0x9#4 →
      exec (decodeWord w) s = exec (decodeWord w') s) ∧
    (w &&& 0xFF0F#16 = w' &&& 0xFF0F#16 →
      fieldOp w = 0x8#4 ∧ (fieldN w = 0x6#4 ∨ fieldN w = 0xE#4) ∨
        fieldOp w = 0xE#4 ∧ (fieldN w = 0x1#4 ∨ fieldN w = 0xE#4) →
      exec (decodeWord w) s = exec (decodeWord w') s)

/-! ### The Step (spec/40_cycle_and_dispatch.md) -/

/-- R120 to R124, R127: when the bytes at `PC` decode to `i`, the Step is the handler of `i` run on the state with
`IR` loaded and `PC` advanced; if it raises no fault both timers are then ticked, and if it raises one only the latch
is kept (decision D5, notes/assumptions/1.md). -/
def Obligations.StepRunsTheDecodedInstruction : Prop :=
  ∀ (s : State) (i : Instr) (rest : List Byte), s.ready →
    decode [s.read s.pc.toNat, s.read (s.pc.toNat + 1)] = .ok (i, rest) →
    let u : State :=
      { s with ir := joinBytes (s.read s.pc.toNat) (s.read (s.pc.toNat + 1)), pc := s.pc + 2 }
    step s =
      match exec i u with
      | .next t =>
        .next (match t.fault with
          | none => { t with dt := if t.dt = 0 then 0 else t.dt - 1, st := if t.st = 0 then 0 else t.st - 1 }
          | some c => { s with fault := some c })
      | .fault c => .fault c
      | .refused r => .refused r

/-- R63, R66, R121: the fetched word is big-endian, and every address, for fetch, read and write, is reduced modulo
4096 (decision D2, notes/assumptions/10.md). -/
def Obligations.FetchIsBigEndianAndAddressesWrap : Prop :=
  (∀ s : State, s.fetchWord.toNat =
    (lookupByte s.mem (s.pc.toNat % 4096)).toNat * 256 + (lookupByte s.mem ((s.pc.toNat + 1) % 4096)).toNat) ∧
  (∀ (s : State) (a : Nat), s.read a = lookupByte s.mem (a % 4096)) ∧
  (∀ (s : State) (a : Nat) (bs : List Byte), s.writeBytes a bs = s.writeBytes (a % 4096) bs)

/-- R126, R128: a faulted engine is absorbing; no number of Steps changes anything (decision D5,
notes/assumptions/1.md). -/
def Obligations.FaultedEngineNeverChanges : Prop :=
  ∀ (s : State) (k : Nat), ¬ s.ready → Host.Core.run core k s = .next s

/-- R127, R221, R229: a Step that faults changes nothing but the latch, and it faults only as a CALL with 15 return
addresses held or as a RET with none (decisions D3, D4, D5, D25; notes/assumptions/1.md, 9.md). -/
def Obligations.FaultingStepCommitsOnlyTheLatch : Prop :=
  ∀ s t : State, s.ready → step s = .next t → ¬ t.ready →
    (t = { s with fault := some .stackOverflow } ∧ s.sp.val = 15 ∧ ∃ nnn, decodeWord s.fetchWord = .call nnn) ∨
    (t = { s with fault := some .stackUnderflow } ∧ s.sp.val = 0 ∧ ∃ pad, decodeWord s.fetchWord = .ret pad)

/-- R101, R224, R226: from every state a Step answers a next state: no word, no address and no mode stops the
machine; a latched fault is a next state too (decision D5, notes/assumptions/1.md). -/
def Obligations.StepAlwaysAnswersANextState : Prop :=
  ∀ s : State, ∃ t, step s = .next t

/-- R124: at the end of every Step that does not fault, each nonzero timer is decremented by 1 and a zero timer stays
0, whatever instruction ran; a timer the instruction has just written is ticked from the written value, and LD Vx, DT
reads the timer before the tick. -/
def Obligations.TimersTickAtTheEndOfEveryStep : Prop :=
  ∀ s t : State, s.ready → step s = .next t → t.ready →
    (∀ x, decodeWord s.fetchWord = .ldDtVx x → t.dt.toNat = (s.reg x).toNat - 1) ∧
    ((∀ x, decodeWord s.fetchWord ≠ .ldDtVx x) → t.dt.toNat = s.dt.toNat - 1) ∧
    (∀ x, decodeWord s.fetchWord = .ldStVx x → t.st.toNat = (s.reg x).toNat - 1) ∧
    ((∀ x, decodeWord s.fetchWord ≠ .ldStVx x) → t.st.toNat = s.st.toNat - 1) ∧
    (∀ x, decodeWord s.fetchWord = .ldVxDt x → t.reg x = s.dt)

/-! ### Who may write what (spec/10_state.md R39) -/

/-- R30, R31, R39, R65: no Step writes the keys; only LD B and LD [I] write memory; only CLS and DRW write the
framebuffer. -/
def Obligations.OnlyStoresWriteMemoryAndOnlyDrawsWriteScreen : Prop :=
  ∀ s t : State, step s = .next t →
    (∀ k, t.key k = s.key k) ∧
    ((∀ x, decodeWord s.fetchWord ≠ .ldB x) → (∀ x, decodeWord s.fetchWord ≠ .ldMemVx x) →
      ∀ a, t.read a = s.read a) ∧
    ((∀ p, decodeWord s.fetchWord ≠ .cls p) → (∀ x y n, decodeWord s.fetchWord ≠ .drw x y n) →
      ∀ x y, t.pixel x y = s.pixel x y)

/-- R24, R183: only LD I, ADD I and LD F write `I`; a Step consumes exactly one draw if it runs RND and none
otherwise, and none under a latched fault. The counter of draws is the model's own (notes/assumptions/4.md). -/
def Obligations.OnlyIndexLoadsWriteIndexAndOnlyRandomDraws : Prop :=
  ∀ s t : State, step s = .next t →
    ((∀ a, decodeWord s.fetchWord ≠ .ldI a) → (∀ x, decodeWord s.fetchWord ≠ .addI x) →
      (∀ x, decodeWord s.fetchWord ≠ .ldF x) → t.i = s.i) ∧
    ((∀ x kk, decodeWord s.fetchWord ≠ .rnd x kk) → t.draws = s.draws) ∧
    (s.ready → ∀ x kk, decodeWord s.fetchWord = .rnd x kk → t.draws = s.draws + 1) ∧
    (¬ s.ready → t.draws = s.draws)

/-- R22, R39: a Step changes no register that its instruction does not write: its destination, the registers of a
block load, and `VF` for the flag writers ADD, SUB, SUBN, SHR, SHL and DRW alone. -/
def Obligations.RegistersAreWrittenOnlyByTheirInstructions : Prop :=
  ∀ (s t : State) (r : RegIdx), step s = .next t → ¬ writesReg (decodeWord s.fetchWord) r → t.reg r = s.reg r

/-- R25, R26, R72: only CALL and RET move the stack pointer, by one; only a CALL writes a slot, and only the slot at
`SP`; `Stack[15]` is never written. -/
def Obligations.OnlyCallAndReturnTouchTheStack : Prop :=
  ∀ s t : State, step s = .next t →
    ((∀ a, decodeWord s.fetchWord ≠ .call a) → ∀ k, t.slot k = s.slot k) ∧
    ((∀ a, decodeWord s.fetchWord ≠ .call a) → (∀ p, decodeWord s.fetchWord ≠ .ret p) → t.sp = s.sp) ∧
    (∀ a, decodeWord s.fetchWord = .call a → t.sp = s.sp ∨ t.sp.val = s.sp.val + 1) ∧
    (∀ p, decodeWord s.fetchWord = .ret p → t.sp = s.sp ∨ t.sp.val + 1 = s.sp.val) ∧
    (∀ k, k ≠ s.sp → t.slot k = s.slot k) ∧
    t.slot 15 = s.slot 15

/-- R23, R122 and the opening of spec/42_conditional_skip.md: in a Step that does not fault, an instruction that is
neither a jump nor a skip nor the key wait moves `PC` by exactly 2, a skip by exactly 2 or 4, and the key wait by 2
or not at all; all modulo 2^16 (decision D15, notes/assumptions/15.md). -/
def Obligations.ProgramCounterMovesByTwoOrAsItsInstructionSays : Prop :=
  ∀ s t : State, s.ready → step s = .next t → t.ready →
    (jumps (decodeWord s.fetchWord) = false → skips (decodeWord s.fetchWord) = false →
      (∀ x, decodeWord s.fetchWord ≠ .ldVxK x) → t.pc = s.pc + 2) ∧
    (skips (decodeWord s.fetchWord) = true → t.pc = s.pc + 2 ∨ t.pc = s.pc + 4) ∧
    (∀ x, decodeWord s.fetchWord = .ldVxK x → t.pc = s.pc + 2 ∨ t.pc = s.pc)

/-- R28, R202: nothing reads the sound timer: Steps from two states that differ only in `ST` end in states that differ
at most in `ST`. -/
def Obligations.SoundTimerInfluencesNothingElse : Prop :=
  ∀ (s t : State) (b : Byte), step s = .next t → ∃ u, step (s.setSt b) = .next u ∧ KeptBut [.st] t u

/-- R32: `IR` is not read across Steps: Steps from two states that differ only in `IR` end in states that differ at most
in `IR`. So the reset value the model gives it (notes/assumptions/5.md) shows nowhere else. -/
def Obligations.InstructionRegisterInfluencesNothingElse : Prop :=
  ∀ (s t : State) (w : Word), step s = .next t → ∃ u, step { s with ir := w } = .next u ∧ KeptBut [.ir] t u

/-- R25 and decision D23: the slots at and above `SP` are not observable: Steps from two states that differ only there
end in states that differ only there (notes/assumptions/9.md). -/
def Obligations.DeadStackSlotsAreUnobservable : Prop :=
  ∀ (s t : State) (stack : Vector Word 16), (∀ k : Fin 16, k < s.sp → stack.get k = s.slot k) → step s = .next t →
    ∃ u, step { s with stack := stack } = .next u ∧ KeptBut [.stack] t u ∧ ∀ k : Fin 16, k < t.sp → u.slot k = t.slot k

/-! ### Invariants -/

/-- The memory's canonical form is kept by every Step, from every state that has it. The form (entries by rising
address, none equal to the cell's reset contents) is the model's own choice of a representation, no rule of the spec
(DESIGN CHOICE, notes/assumptions/3.md); that the addresses stay below 4096 rests on R60 and R66. -/
def Obligations.StepKeepsMemoryCanonical : Prop :=
  ∀ s t : State, Memory.wf s.mem → step s = .next t → Memory.wf t.mem

/-- The memory's canonical form, the model's own choice of a representation (DESIGN CHOICE, notes/assumptions/3.md),
holds at reset. -/
def Obligations.ResetMemoryIsCanonical : Prop :=
  Memory.wf State.reset.mem

/-- The memory's canonical form, the model's own choice of a representation (DESIGN CHOICE, notes/assumptions/3.md), is
kept by every action of the host: reset, load, key write, step request. -/
def Obligations.HostActionsKeepMemoryCanonical : Prop :=
  ∀ (a : HostAction) (c d : Session), Memory.wf c.machine.mem → hostAct a c = .next d → Memory.wf d.machine.mem

/-- R253, R254: until the first Step the host's actions leave all of the state as after reset but memory, keys and what
has no reset value in the spec (`IR` and the random source, notes/assumptions/5.md, 4.md); so the first instruction
runs with the reset values and its own image. -/
def Obligations.ProgramStartsFromResetValues : Prop :=
  ∀ (a : HostAction) (c d : Session), c.phase ≠ .running → KeptBut [.mem, .keys, .ir, .draws] State.reset c.machine →
    hostAct a c = .next d → d.phase ≠ .running → KeptBut [.mem, .keys, .ir, .draws] State.reset d.machine

/-! ### Control flow (spec/41_control_flow.md) -/

/-- R140, JP nnn. -/
def Obligations.JumpSetsTheProgramCounter : Prop :=
  (∀ w : Word, w &&& 0xF000#16 = 0x1000#16 → decodeWord w = .jp (w.extractLsb' 0 12)) ∧
  ∀ (nnn : Addr12) (s : State), ∃ t, exec (.jp nnn) s = .next t ∧ t.pc.toNat = nnn.toNat ∧ KeptBut [.pc] s t

/-- R141, R222, CALL nnn: below 15 held addresses it pushes the advanced `PC` and jumps; with 15 held it takes the
fault StackOverflow, with `PC` back at the CALL and nothing else changed (decisions D3, D5, D25;
notes/assumptions/1.md, 9.md). -/
def Obligations.CallPushesTheReturnAddress : Prop :=
  (∀ w : Word, w &&& 0xF000#16 = 0x2000#16 → decodeWord w = .call (w.extractLsb' 0 12)) ∧
  ∀ (nnn : Addr12) (s : State),
    (s.sp.val < 15 → ∃ t, exec (.call nnn) s = .next t ∧ t.slot s.sp = s.pc ∧ t.sp.val = s.sp.val + 1 ∧
      t.pc.toNat = nnn.toNat ∧ (∀ k, k ≠ s.sp → t.slot k = s.slot k) ∧ KeptBut [.pc, .stack, .sp] s t) ∧
    (s.sp.val = 15 → ∃ t, exec (.call nnn) s = .next t ∧ t.fault = some .stackOverflow ∧ t.pc = s.pc - 2 ∧
      KeptBut [.pc, .fault] s t)

/-- R142, R223, RET: it pops the most recent address, whose slot keeps its value; with none held it takes the fault
StackUnderflow, with `PC` back at the RET and nothing else changed (decisions D4, D5, D23; notes/assumptions/1.md,
9.md). -/
def Obligations.ReturnPopsTheReturnAddress : Prop :=
  (∀ w : Word, w &&& 0xF00F#16 = 0x000E#16 → decodeWord w = .ret (w.extractLsb' 4 8)) ∧
  ∀ (pad : Byte) (s : State),
    (0 < s.sp.val → ∃ t, exec (.ret pad) s = .next t ∧ t.sp.val + 1 = s.sp.val ∧ t.pc = s.slot t.sp ∧
      KeptBut [.pc, .sp] s t) ∧
    (s.sp.val = 0 → ∃ t, exec (.ret pad) s = .next t ∧ t.fault = some .stackUnderflow ∧ t.pc = s.pc - 2 ∧
      KeptBut [.pc, .fault] s t)

/-- R143, JP V0, nnn: the sum never wraps, and bit 12 of it stays in `PC`. -/
def Obligations.JumpWithOffsetAddsRegisterZero : Prop :=
  (∀ w : Word, w &&& 0xF000#16 = 0xB000#16 → decodeWord w = .jpV0 (w.extractLsb' 0 12)) ∧
  ∀ (nnn : Addr12) (s : State), ∃ t, exec (.jpV0 nnn) s = .next t ∧ t.pc.toNat = nnn.toNat + (s.reg 0).toNat ∧
    t.pc.toNat ≤ 0x10FE ∧ KeptBut [.pc] s t

/-- A CALL, then anything that leaves the stack as the CALL left it, then a RET: `PC` is the address after the CALL
and the depth is the one before it (spec/95_test_vectors.md EX6). -/
def Obligations.CallThenReturnComesBack : Prop :=
  ∀ (nnn : Addr12) (pad : Byte) (s t u : State), s.sp.val < 15 → exec (.call nnn) s = .next t →
    u.sp = t.sp → (∀ k, u.slot k = t.slot k) →
    ∃ v, exec (.ret pad) u = .next v ∧ v.pc = s.pc ∧ v.sp = s.sp

/-! ### Conditional skips (spec/42_conditional_skip.md) -/

/-- R150 to R153: the four compare skips write nothing but `PC`, which gains 2 exactly when they match. -/
def Obligations.CompareSkipsAddTwoOnMatch : Prop :=
  ((∀ w : Word, w &&& 0xF000#16 = 0x3000#16 → decodeWord w = .seImm (fieldX w) (w.extractLsb' 0 8)) ∧
   (∀ w : Word, w &&& 0xF000#16 = 0x4000#16 → decodeWord w = .sneImm (fieldX w) (w.extractLsb' 0 8)) ∧
   (∀ w : Word, w &&& 0xF000#16 = 0x5000#16 → decodeWord w = .seReg (fieldX w) (fieldY w) (w.extractLsb' 0 4)) ∧
   (∀ w : Word, w &&& 0xF000#16 = 0x9000#16 → decodeWord w = .sneReg (fieldX w) (fieldY w) (w.extractLsb' 0 4))) ∧
  ∀ (x y : RegIdx) (kk : Byte) (pad : Nibble) (s : State),
    (∃ t, exec (.seImm x kk) s = .next t ∧ t.pc = (if s.reg x = kk then s.pc + 2 else s.pc) ∧ KeptBut [.pc] s t) ∧
    (∃ t, exec (.sneImm x kk) s = .next t ∧ t.pc = (if s.reg x = kk then s.pc else s.pc + 2) ∧ KeptBut [.pc] s t) ∧
    (∃ t, exec (.seReg x y pad) s = .next t ∧ t.pc = (if s.reg x = s.reg y then s.pc + 2 else s.pc) ∧
      KeptBut [.pc] s t) ∧
    (∃ t, exec (.sneReg x y pad) s = .next t ∧ t.pc = (if s.reg x = s.reg y then s.pc else s.pc + 2) ∧
      KeptBut [.pc] s t)

/-- R154, R155: SKP and SKNP test the key whose index is the low nibble of `V[x]` (decision D13,
notes/assumptions/13.md). -/
def Obligations.KeySkipsTestTheKeyNamedByTheRegister : Prop :=
  ((∀ w : Word, w &&& 0xF00F#16 = 0xE00E#16 → decodeWord w = .skp (fieldX w) (w.extractLsb' 4 4)) ∧
   (∀ w : Word, w &&& 0xF00F#16 = 0xE001#16 → decodeWord w = .sknp (fieldX w) (w.extractLsb' 4 4))) ∧
  ∀ (x k : Fin 16) (pad : Nibble) (s : State), k.val = (s.reg x).toNat % 16 →
    (∃ t, exec (.skp x pad) s = .next t ∧ t.pc = (if s.key k = true then s.pc + 2 else s.pc) ∧ KeptBut [.pc] s t) ∧
    (∃ t, exec (.sknp x pad) s = .next t ∧ t.pc = (if s.key k = true then s.pc else s.pc + 2) ∧ KeptBut [.pc] s t)

/-! ### Loads, logic, arithmetic, shifts (spec/43_alu.md) -/

/-- R160, R161, R162: LD Vx, kk; ADD Vx, kk (wrapping, no flag); LD Vx, Vy. Every register but `V[x]` is kept, `VF`
among them. -/
def Obligations.RegisterLoadsAndImmediateAdd : Prop :=
  ((∀ w : Word, w &&& 0xF000#16 = 0x6000#16 → decodeWord w = .ldImm (fieldX w) (w.extractLsb' 0 8)) ∧
   (∀ w : Word, w &&& 0xF000#16 = 0x7000#16 → decodeWord w = .addImm (fieldX w) (w.extractLsb' 0 8)) ∧
   (∀ w : Word, w &&& 0xF00F#16 = 0x8000#16 → decodeWord w = .ldReg (fieldX w) (fieldY w))) ∧
  ∀ (x y : RegIdx) (kk : Byte) (s : State),
    (∃ t, exec (.ldImm x kk) s = .next t ∧ t.reg x = kk ∧ RegsKeptBut [x] s t ∧ KeptBut [.regs] s t) ∧
    (∃ t, exec (.addImm x kk) s = .next t ∧ (t.reg x).toNat = ((s.reg x).toNat + kk.toNat) % 256 ∧
      RegsKeptBut [x] s t ∧ KeptBut [.regs] s t) ∧
    (∃ t, exec (.ldReg x y) s = .next t ∧ t.reg x = s.reg y ∧ RegsKeptBut [x] s t ∧ KeptBut [.regs] s t)

/-- R163, R164, R165: OR, AND, XOR, bit by bit, with no flag. -/
def Obligations.LogicOperationsWriteNoFlag : Prop :=
  ((∀ w : Word, w &&& 0xF00F#16 = 0x8001#16 → decodeWord w = .orReg (fieldX w) (fieldY w)) ∧
   (∀ w : Word, w &&& 0xF00F#16 = 0x8002#16 → decodeWord w = .andReg (fieldX w) (fieldY w)) ∧
   (∀ w : Word, w &&& 0xF00F#16 = 0x8003#16 → decodeWord w = .xorReg (fieldX w) (fieldY w))) ∧
  ∀ (x y : RegIdx) (s : State),
    (∃ t, exec (.orReg x y) s = .next t ∧
      (∀ k, (t.reg x).getLsbD k = ((s.reg x).getLsbD k || (s.reg y).getLsbD k)) ∧
      RegsKeptBut [x] s t ∧ KeptBut [.regs] s t) ∧
    (∃ t, exec (.andReg x y) s = .next t ∧
      (∀ k, (t.reg x).getLsbD k = ((s.reg x).getLsbD k && (s.reg y).getLsbD k)) ∧
      RegsKeptBut [x] s t ∧ KeptBut [.regs] s t) ∧
    (∃ t, exec (.xorReg x y) s = .next t ∧
      (∀ k, (t.reg x).getLsbD k = ((s.reg x).getLsbD k ^^ (s.reg y).getLsbD k)) ∧
      RegsKeptBut [x] s t ∧ KeptBut [.regs] s t)

/-- R166: ADD Vx, Vy. `VF` is the carry of the exact sum, written before the result, so the result stays in `VF` when
`x` = 15 (decision D12, notes/assumptions/12.md). -/
def Obligations.AddWritesCarryThenSum : Prop :=
  (∀ w : Word, w &&& 0xF00F#16 = 0x8004#16 → decodeWord w = .addReg (fieldX w) (fieldY w)) ∧
  ∀ (x y : RegIdx) (s : State), ∃ t, exec (.addReg x y) s = .next t ∧
    (t.reg x).toNat = ((s.reg x).toNat + (s.reg y).toNat) % 256 ∧
    (x ≠ 15 → t.reg 15 = if (s.reg x).toNat + (s.reg y).toNat > 255 then 1 else 0) ∧
    RegsKeptBut [x, 15] s t ∧ KeptBut [.regs] s t

/-- R167, R168: SUB and SUBN. `VF` is 1 exactly when minuend ≥ subtrahend, written before the result (decision D12,
notes/assumptions/12.md). -/
def Obligations.SubtractWritesNoBorrowThenDifference : Prop :=
  ((∀ w : Word, w &&& 0xF00F#16 = 0x8005#16 → decodeWord w = .subReg (fieldX w) (fieldY w)) ∧
   (∀ w : Word, w &&& 0xF00F#16 = 0x8007#16 → decodeWord w = .subnReg (fieldX w) (fieldY w))) ∧
  ∀ (x y : RegIdx) (s : State),
    (∃ t, exec (.subReg x y) s = .next t ∧
      (t.reg x).toNat = (256 + (s.reg x).toNat - (s.reg y).toNat) % 256 ∧
      (x ≠ 15 → t.reg 15 = if (s.reg x).toNat ≥ (s.reg y).toNat then 1 else 0) ∧
      RegsKeptBut [x, 15] s t ∧ KeptBut [.regs] s t) ∧
    (∃ t, exec (.subnReg x y) s = .next t ∧
      (t.reg x).toNat = (256 + (s.reg y).toNat - (s.reg x).toNat) % 256 ∧
      (x ≠ 15 → t.reg 15 = if (s.reg y).toNat ≥ (s.reg x).toNat then 1 else 0) ∧
      RegsKeptBut [x, 15] s t ∧ KeptBut [.regs] s t)

/-- R169, R170: SHR and SHL shift `V[x]` alone by one; `VF` is the bit shifted out, written before the result
(decision D12, notes/assumptions/12.md). -/
def Obligations.ShiftsWriteTheBitShiftedOut : Prop :=
  ((∀ w : Word, w &&& 0xF00F#16 = 0x8006#16 → decodeWord w = .shr (fieldX w) (w.extractLsb' 4 4)) ∧
   (∀ w : Word, w &&& 0xF00F#16 = 0x800E#16 → decodeWord w = .shl (fieldX w) (w.extractLsb' 4 4))) ∧
  ∀ (x : RegIdx) (pad : Nibble) (s : State),
    (∃ t, exec (.shr x pad) s = .next t ∧ (t.reg x).toNat = (s.reg x).toNat / 2 ∧
      (x ≠ 15 → (t.reg 15).toNat = (s.reg x).toNat % 2) ∧ RegsKeptBut [x, 15] s t ∧ KeptBut [.regs] s t) ∧
    (∃ t, exec (.shl x pad) s = .next t ∧ (t.reg x).toNat = (s.reg x).toNat * 2 % 256 ∧
      (x ≠ 15 → (t.reg 15).toNat = (s.reg x).toNat / 128) ∧ RegsKeptBut [x, 15] s t ∧ KeptBut [.regs] s t)

/-! ### Index register and random byte (spec/44_index_random.md) -/

/-- R180, LD I, nnn: the upper four bits of `I` become 0. -/
def Obligations.IndexLoadsTheAddress : Prop :=
  (∀ w : Word, w &&& 0xF000#16 = 0xA000#16 → decodeWord w = .ldI (w.extractLsb' 0 12)) ∧
  ∀ (nnn : Addr12) (s : State), ∃ t, exec (.ldI nnn) s = .next t ∧ t.i.toNat = nnn.toNat ∧ KeptBut [.i] s t

/-- R181, ADD I, Vx: modulo 2^16, with no flag (decision D15, notes/assumptions/15.md). -/
def Obligations.IndexAddSetsNoFlag : Prop :=
  (∀ w : Word, w &&& 0xF0FF#16 = 0xF01E#16 → decodeWord w = .addI (fieldX w)) ∧
  ∀ (x : RegIdx) (s : State), ∃ t, exec (.addI x) s = .next t ∧
    t.i.toNat = (s.i.toNat + (s.reg x).toNat) % 65536 ∧ KeptBut [.i] s t

/-- R182, LD F, Vx: the glyph address of the low nibble, for every glyph base the spec allows; always below 0x200. -/
def Obligations.GlyphAddressOfTheLowNibble : Prop :=
  (∀ w : Word, w &&& 0xF0FF#16 = 0xF029#16 → decodeWord w = .ldF (fieldX w)) ∧
  ∀ (x : RegIdx) (s : State), ∃ t, exec (.ldF x) s = .next t ∧
    t.i.toNat = Config.glyphBase.val + 5 * ((s.reg x).toNat % 16) ∧ t.i.toNat < 0x200 ∧ KeptBut [.i] s t

/-- R183, RND Vx, kk: a free byte masked by `kk`, one draw consumed. The byte is the free value
`Config.randByte s.draws`, of which nothing is known (notes/assumptions/4.md). -/
def Obligations.RandomByteIsMasked : Prop :=
  (∀ w : Word, w &&& 0xF000#16 = 0xC000#16 → decodeWord w = .rnd (fieldX w) (w.extractLsb' 0 8)) ∧
  ∀ (x : RegIdx) (kk : Byte) (s : State), ∃ t, exec (.rnd x kk) s = .next t ∧
    t.reg x = Config.randByte s.draws &&& kk ∧ t.reg x &&& ~~~kk = 0 ∧ t.draws = s.draws + 1 ∧
    RegsKeptBut [x] s t ∧ KeptBut [.regs, .draws] s t

/-! ### Display (spec/45_display.md) -/

/-- R191, CLS: all pixels off, nothing else changed, `VF` among it (decision D18, notes/assumptions/16.md). -/
def Obligations.ClearScreenTurnsAllPixelsOff : Prop :=
  (∀ w : Word, w &&& 0xF00F#16 = 0x0000#16 → decodeWord w = .cls (w.extractLsb' 4 8)) ∧
  ∀ (pad : Byte) (s : State), ∃ t, exec (.cls pad) s = .next t ∧ (∀ x y, t.pixel x y = false) ∧ KeptBut [.fb] s t

/-- R192, DRW Vx, Vy, n: exactly the pixels under the sprite's 1 bits, wrapped on each axis, are flipped; `VF` is 1
exactly when one of them was lit, and is always written. The coordinates are the registers before `VF` is written
(decision D12, notes/assumptions/12.md), and `n` = 0 draws nothing. -/
def Obligations.DrawFlipsThePixelsUnderTheSprite : Prop :=
  (∀ w : Word, w &&& 0xF000#16 = 0xD000#16 → decodeWord w = .drw (fieldX w) (fieldY w) (w.extractLsb' 0 4).toFin) ∧
  ∀ (x y : RegIdx) (n : Fin 16) (s : State), ∃ t, exec (.drw x y n) s = .next t ∧
    (∀ px py, SpriteCovers s (s.reg x) (s.reg y) n px py → t.pixel px py = !s.pixel px py) ∧
    (∀ px py, ¬ SpriteCovers s (s.reg x) (s.reg y) n px py → t.pixel px py = s.pixel px py) ∧
    ((∃ px py, SpriteCovers s (s.reg x) (s.reg y) n px py ∧ s.pixel px py = true) → t.reg 15 = 1) ∧
    ((∀ px py, SpriteCovers s (s.reg x) (s.reg y) n px py → s.pixel px py = false) → t.reg 15 = 0) ∧
    RegsKeptBut [15] s t ∧ KeptBut [.regs, .fb] s t

/-- The draw property of spec/95_test_vectors.md EX7: the same draw again, with the coordinates as they were, puts
every pixel back; and if the first draw erased nothing, the second one's flag is 1 exactly when the sprite has a 1 bit.
-/
def Obligations.DrawingTwiceRestoresTheScreen : Prop :=
  ∀ (x y : RegIdx) (n : Fin 16) (s t : State), exec (.drw x y n) s = .next t → t.reg x = s.reg x → t.reg y = s.reg y →
    ∃ u, exec (.drw x y n) t = .next u ∧ (∀ px py, u.pixel px py = s.pixel px py) ∧
      (t.reg 15 = 0 → (u.reg 15 = 1 ↔ ∃ r < n.val, s.read (s.dataAddr r) ≠ 0))

/-! ### Timers and key wait (spec/46_timers_keys.md) -/

/-- R200, LD Vx, DT: the handler stores `DT`; the tick of the same Step then lowers it. -/
def Obligations.DelayTimerIsReadBeforeTheTick : Prop :=
  (∀ w : Word, w &&& 0xF0FF#16 = 0xF007#16 → decodeWord w = .ldVxDt (fieldX w)) ∧
  (∀ (x : RegIdx) (s : State), ∃ t, exec (.ldVxDt x) s = .next t ∧ t.reg x = s.dt ∧ RegsKeptBut [x] s t ∧
    KeptBut [.regs] s t) ∧
  ∀ (x : RegIdx) (s : State), s.ready → decodeWord s.fetchWord = .ldVxDt x →
    ∃ t, step s = .next t ∧ t.reg x = s.dt ∧ t.dt.toNat = s.dt.toNat - 1 ∧ RegsKeptBut [x] s t ∧
      KeptBut [.regs, .pc, .ir, .dt, .st] s t

/-- R201, R202: LD DT, Vx and LD ST, Vx; the tick follows in the same Step. -/
def Obligations.TimerWritesAreTickedInTheSameStep : Prop :=
  ((∀ w : Word, w &&& 0xF0FF#16 = 0xF015#16 → decodeWord w = .ldDtVx (fieldX w)) ∧
   (∀ w : Word, w &&& 0xF0FF#16 = 0xF018#16 → decodeWord w = .ldStVx (fieldX w))) ∧
  (∀ (x : RegIdx) (s : State),
    (∃ t, exec (.ldDtVx x) s = .next t ∧ t.dt = s.reg x ∧ KeptBut [.dt] s t) ∧
    (∃ t, exec (.ldStVx x) s = .next t ∧ t.st = s.reg x ∧ KeptBut [.st] s t)) ∧
  ∀ (x : RegIdx) (s : State), s.ready →
    (decodeWord s.fetchWord = .ldDtVx x → ∃ t, step s = .next t ∧ t.dt.toNat = (s.reg x).toNat - 1 ∧
      KeptBut [.pc, .ir, .dt, .st] s t) ∧
    (decodeWord s.fetchWord = .ldStVx x → ∃ t, step s = .next t ∧ t.st.toNat = (s.reg x).toNat - 1 ∧
      KeptBut [.pc, .ir, .dt, .st] s t)

/-- R203, LD Vx, K: with a key pressed the lowest pressed index is stored and `PC` stays past the instruction
(decision D14, notes/assumptions/14.md); with none pressed `PC` goes back by 2 and nothing else changes, so that the
whole Step leaves `PC` where it was and only ticks the timers. -/
def Obligations.KeyWaitStoresTheLowestKeyOrWaits : Prop :=
  (∀ w : Word, w &&& 0xF0FF#16 = 0xF00A#16 → decodeWord w = .ldVxK (fieldX w)) ∧
  (∀ (x k : Fin 16) (s : State), s.key k = true → (∀ j < k, s.key j = false) →
    ∃ t, exec (.ldVxK x) s = .next t ∧ (t.reg x).toNat = k.val ∧ RegsKeptBut [x] s t ∧ KeptBut [.regs] s t) ∧
  (∀ (x : RegIdx) (s : State), (∀ k, s.key k = false) →
    ∃ t, exec (.ldVxK x) s = .next t ∧ t.pc = s.pc - 2 ∧ KeptBut [.pc] s t) ∧
  ∀ (x : RegIdx) (s : State), s.ready → decodeWord s.fetchWord = .ldVxK x → (∀ k, s.key k = false) →
    ∃ t, step s = .next t ∧ t.pc = s.pc ∧ t.dt.toNat = s.dt.toNat - 1 ∧ t.st.toNat = s.st.toNat - 1 ∧
      KeptBut [.ir, .dt, .st] s t

/-! ### Memory instructions (spec/47_memory_ops.md) -/

/-- R210, LD B, Vx: hundreds, tens and ones to three cells, `I` and everything else kept. -/
def Obligations.DecimalDigitsAreStored : Prop :=
  (∀ w : Word, w &&& 0xF0FF#16 = 0xF033#16 → decodeWord w = .ldB (fieldX w)) ∧
  ∀ (x : RegIdx) (s : State), ∃ t, exec (.ldB x) s = .next t ∧
    (t.read (s.dataAddr 0)).toNat = (s.reg x).toNat / 100 ∧
    (t.read (s.dataAddr 1)).toNat = (s.reg x).toNat / 10 % 10 ∧
    (t.read (s.dataAddr 2)).toNat = (s.reg x).toNat % 10 ∧
    MemKeptBut (s.dataAddr 0) 3 s t ∧ KeptBut [.mem] s t

/-- R211, LD [I], Vx: `V[0..x]` to `x + 1` cells, `I` and everything else kept. -/
def Obligations.RegisterBlockIsStored : Prop :=
  (∀ w : Word, w &&& 0xF0FF#16 = 0xF055#16 → decodeWord w = .ldMemVx (fieldX w)) ∧
  ∀ (x : RegIdx) (s : State), ∃ t, exec (.ldMemVx x) s = .next t ∧
    (∀ k : RegIdx, k ≤ x → t.read (s.dataAddr k) = s.reg k) ∧
    MemKeptBut (s.dataAddr 0) (x.val + 1) s t ∧ KeptBut [.mem] s t

/-- R212, LD Vx, [I]: `x + 1` cells to `V[0..x]`; the registers above `x`, memory, `I` and everything else kept. -/
def Obligations.RegisterBlockIsLoaded : Prop :=
  (∀ w : Word, w &&& 0xF0FF#16 = 0xF065#16 → decodeWord w = .ldVxMem (fieldX w)) ∧
  ∀ (x : RegIdx) (s : State), ∃ t, exec (.ldVxMem x) s = .next t ∧
    (∀ k : RegIdx, k ≤ x → t.reg k = s.read (s.dataAddr k)) ∧
    (∀ k : RegIdx, x < k → t.reg k = s.reg k) ∧ KeptBut [.regs] s t

/-- A block store, then any change that keeps memory and `I`, then the block load with the same `x`: the registers
stored are back (R212's derived sentence). -/
def Obligations.StoreThenLoadRestoresTheRegisters : Prop :=
  ∀ (x : RegIdx) (s t u : State), exec (.ldMemVx x) s = .next t → u.i = t.i → (∀ a, u.read a = t.read a) →
    ∃ v, exec (.ldVxMem x) u = .next v ∧ ∀ k : RegIdx, k ≤ x → v.reg k = s.reg k

/-- R71, R121: a store of two or more registers over the bytes at `PC` is what the next fetch reads: `V[0]` is the
high byte and `V[1]` the low byte. -/
def Obligations.StoredBytesAreFetchedNext : Prop :=
  ∀ (x : RegIdx) (s : State), 1 ≤ x.val → memCell (s.dataAddr 0) = memCell s.pc.toNat →
    ∃ t, exec (.ldMemVx x) s = .next t ∧ t.fetchWord = joinBytes (s.reg 0) (s.reg 1)

/-! ### Reset, load, ports, the end of a run (spec/10_state.md, spec/60_exceptions.md, spec/70_reset_and_hazards.md) -/

/-- R38: the values the spec gives for reset, for every glyph base and table. `I`, `SP` and `FAULT` by the spec's own
decisions D20 and D5 (notes/assumptions/6.md, 1.md). Nothing is said of `IR` and of the random source, whose reset
values the spec leaves unspecified. -/
def Obligations.ResetLeavesTheStatedValues : Prop :=
  (∀ r, State.reset.reg r = 0) ∧ State.reset.pc = 0x200 ∧ State.reset.i = 0 ∧ (∀ k, State.reset.slot k = 0) ∧
  State.reset.sp = 0 ∧ State.reset.dt = 0 ∧ State.reset.st = 0 ∧ (∀ k, State.reset.key k = false) ∧
  (∀ x y, State.reset.pixel x y = false) ∧ State.reset.fault = none ∧
  (∀ k (h : k < 80), State.reset.read (Config.glyphBase.val + k) = Config.glyphTable[k]) ∧
  ∀ a < 4096, a < Config.glyphBase.val ∨ Config.glyphBase.val + 80 ≤ a → State.reset.read a = 0

/-- R225, R252: an image of at most 3584 bytes is copied in order to 0x200 on and nothing else changes; a longer one
is refused as a whole (decision D6, notes/assumptions/18.md). -/
def Obligations.ImageIsLoadedOrRefusedWhole : Prop :=
  ∀ (s : State) (bytes : List Byte),
    (bytes.length ≤ 3584 → ∃ t, s.loadImage bytes = .next t ∧
      (∀ k (h : k < bytes.length), t.read (0x200 + k) = bytes[k]) ∧
      MemKeptBut 0x200 bytes.length s t ∧ KeptBut [.mem] s t) ∧
    (3584 < bytes.length → s.loadImage bytes = .refused .imageTooLarge)

/-- R36, R237, R250, R253: what the host's actions do: a load has a move only once and before the first Step; the keys
may be set at any time and change nothing else; a Step is the engine's Step; a reset starts a new run. The name of the
refusal is the model's own (notes/assumptions/18.md). Nothing is said of `IR` and of the random source after a
reset. -/
def Obligations.HostProtocolIsKept : Prop :=
  (∀ (c : Session) (bytes : List Byte), c.phase ≠ .fresh → hostAct (.load bytes) c = .refused .hostOutOfTurn) ∧
  (∀ (c : Session) (bytes : List Byte) (t : State), c.phase = .fresh → c.machine.loadImage bytes = .next t →
    hostAct (.load bytes) c = .next { phase := .loaded, machine := t }) ∧
  (∀ (c : Session) (flags : Vector Bool 16), ∃ d, hostAct (.keys flags) c = .next d ∧ d.phase = c.phase ∧
    (∀ k, d.machine.key k = flags.get k) ∧ KeptBut [.keys] c.machine d.machine) ∧
  (∀ (c : Session) (t : State), step c.machine = .next t →
    hostAct .step c = .next { phase := .running, machine := t }) ∧
  ∀ c : Session, ∃ d, hostAct .reset c = .next d ∧ d.phase = .fresh ∧ KeptBut [.ir, .draws] State.reset d.machine

/-- R31, R37, R221: the `fb` port shows `FB[x, y]` as element `y × 64 + x`, the timer ports the timers, the `fault` port
the code of the latch (decisions D19, D24, notes/assumptions/17.md). -/
def Obligations.PortsShowTheState : Prop :=
  (∀ (s : State) (x : Fin 64) (y : Fin 32) (h : y.val * 64 + x.val < 2048),
    s.fbPort[y.val * 64 + x.val] = s.pixel x y) ∧
  (∀ s : State, s.dtPort = s.dt ∧ s.stPort = s.st) ∧
  (∀ s : State, (s.faultPort = 0 ↔ s.fault = none) ∧ (s.faultPort = 1 ↔ s.fault = some .stackOverflow) ∧
    (s.faultPort = 2 ↔ s.fault = some .stackUnderflow))

/-- R264: a parked state is a fixed point: a Step leaves it parked and changes nothing but `IR`, and once `IR` holds
the self-jump nothing at all. -/
def Obligations.ParkedStateIsAFixedPoint : Prop :=
  ∀ s : State, s.parked → ∃ t, step s = .next t ∧ t.parked ∧ KeptBut [.ir] s t ∧ step t = .next t

/-- R105, R124, R140: any number of Steps at a self-jump stay there and only run the timers down, to 0 and no
further. -/
def Obligations.SelfJumpOnlyRunsTheTimersDown : Prop :=
  ∀ (k : Nat) (s : State), s.ready → s.atSelfJump →
    ∃ t, Host.Core.run core k s = .next t ∧ t.atSelfJump ∧ t.dt.toNat = s.dt.toNat - k ∧ t.st.toNat = s.st.toNat - k ∧
      KeptBut [.ir, .dt, .st] s t
end

