-- ==== Sys2Proof/Laws/Decode.lean ====
section
/-!
SUPPORT. How the fields of a word relate to its masks and to the packed layouts.
-/

namespace Sys2Proof

/-- A masked word fixes the class where the mask keeps the top nibble. -/
theorem fieldOp_of_and {w m c : Word} (h : w &&& m = c) (hm : m.extractLsb' 12 4 = 0xF#4) : fieldOp w = fieldOp c := by
  subst h
  show w.extractLsb' 12 4 = (w &&& m).extractLsb' 12 4
  rw [BitVec.extractLsb'_and, hm]
  exact (BitVec.and_allOnes (x := w.extractLsb' 12 4)).symm

/-- A masked word fixes the low nibble where the mask keeps it. -/
theorem fieldN_of_and {w m c : Word} (h : w &&& m = c) (hm : m.extractLsb' 0 4 = 0xF#4) : fieldN w = fieldN c := by
  subst h
  show w.extractLsb' 0 4 = (w &&& m).extractLsb' 0 4
  rw [BitVec.extractLsb'_and, hm]
  exact (BitVec.and_allOnes (x := w.extractLsb' 0 4)).symm

/-- A masked word fixes the low byte where the mask keeps it. -/
theorem fieldKK_of_and {w m c : Word} (h : w &&& m = c) (hm : m.extractLsb' 0 8 = 0xFF#8) : fieldKK w = fieldKK c := by
  subst h
  show w.extractLsb' 0 8 = (w &&& m).extractLsb' 0 8
  rw [BitVec.extractLsb'_and, hm]
  exact (BitVec.and_allOnes (x := w.extractLsb' 0 8)).symm

/-! ### Fields of the packed layouts -/

theorem fieldOp_packNNN {op : Nat} (a : Addr12) : fieldOp (packNNN op a) = BitVec.ofNat 4 op := by
  apply BitVec.eq_of_toNat_eq
  simp [fieldOp, packNNN, Nat.shiftRight_eq_div_pow]
  omega

theorem fieldNNN_packNNN {op : Nat} (a : Addr12) : fieldNNN (packNNN op a) = a := by
  apply BitVec.eq_of_toNat_eq
  simp [fieldNNN, packNNN]
  omega

theorem fieldOp_packXKK {op : Nat} (x : RegIdx) (kk : Byte) :
    fieldOp (packXKK op x kk) = BitVec.ofNat 4 op := by
  apply BitVec.eq_of_toNat_eq
  simp [fieldOp, packXKK, Nat.shiftRight_eq_div_pow]
  omega

theorem fieldX_packXKK {op : Nat} (x : RegIdx) (kk : Byte) : fieldX (packXKK op x kk) = x := by
  apply Fin.ext
  simp [fieldX, packXKK, Nat.shiftRight_eq_div_pow]
  omega

theorem fieldKK_packXKK {op : Nat} (x : RegIdx) (kk : Byte) : fieldKK (packXKK op x kk) = kk := by
  apply BitVec.eq_of_toNat_eq
  simp [fieldKK, packXKK]
  omega

section xyn

variable {op x y n : Nat}

theorem fieldOp_packXYN (hx : x < 16) (hy : y < 16) (hn : n < 16) :
    fieldOp (packXYN op x y n) = BitVec.ofNat 4 op := by
  apply BitVec.eq_of_toNat_eq
  simp [fieldOp, packXYN, Nat.shiftRight_eq_div_pow]
  omega

theorem fieldX_packXYN (hx : x < 16) (hy : y < 16) (hn : n < 16) : (fieldX (packXYN op x y n)).val = x := by
  simp [fieldX, packXYN, Nat.shiftRight_eq_div_pow]
  omega

theorem fieldY_packXYN (hy : y < 16) (hn : n < 16) : (fieldY (packXYN op x y n)).val = y := by
  simp [fieldY, packXYN, Nat.shiftRight_eq_div_pow]
  omega

theorem fieldPadY_packXYN (hy : y < 16) (hn : n < 16) : (fieldPadY (packXYN op x y n)).toNat = y := by
  simp [fieldPadY, packXYN, Nat.shiftRight_eq_div_pow]
  omega

theorem fieldN_packXYN : fieldN (packXYN op x y n) = BitVec.ofNat 4 n := by
  apply BitVec.eq_of_toNat_eq
  simp [fieldN, packXYN]
  omega

end xyn

theorem fieldOp_packClass0 {n : Nat} (hn : n < 16) (pad : Byte) : fieldOp (packClass0 pad n) = 0x0#4 := by
  apply BitVec.eq_of_toNat_eq
  simp [fieldOp, packClass0, Nat.shiftRight_eq_div_pow]
  omega

theorem fieldN_packClass0 {n : Nat} (pad : Byte) : fieldN (packClass0 pad n) = BitVec.ofNat 4 n := by
  apply BitVec.eq_of_toNat_eq
  simp [fieldN, packClass0]

theorem fieldPadXY_packClass0 {n : Nat} (hn : n < 16) (pad : Byte) : fieldPadXY (packClass0 pad n) = pad := by
  apply BitVec.eq_of_toNat_eq
  simp [fieldPadXY, packClass0, Nat.shiftRight_eq_div_pow]
  omega

/-! ### Words under the three masks of the opcode map -/

/-- The mask F000 keeps the class. -/
theorem and_classMask (w : Word) : w &&& 0xF000#16 = (fieldOp w).setWidth 16 <<< 12 := by
  ext i hi
  interval_cases i <;> simp [fieldOp]

/-- The mask F00F keeps the class and the low nibble. -/
theorem and_nibbleMask (w : Word) : w &&& 0xF00F#16 = (fieldOp w).setWidth 16 <<< 12 ||| (fieldN w).setWidth 16 := by
  ext i hi
  interval_cases i <;> simp [fieldOp, fieldN]

/-- The mask F0FF keeps the class and the low byte. -/
theorem and_byteMask (w : Word) : w &&& 0xF0FF#16 = (fieldOp w).setWidth 16 <<< 12 ||| (fieldKK w).setWidth 16 := by
  ext i hi
  interval_cases i <;> simp [fieldOp, fieldKK]

end Sys2Proof
end

