-- ==== Sys2Proof/Laws/State.lean ====
section
/-!
SUPPORT. One lemma per field per update of the state, each true by unfolding once, so that no later proof unfolds a
record update.
-/

namespace Sys2Proof.Machine

section setReg

variable (s : State) (x : RegIdx) (b : Byte)

@[simp] theorem State.setReg_v : (s.setReg x b).v = s.v.set x b x.isLt := rfl
@[simp] theorem State.setReg_mem : (s.setReg x b).mem = s.mem := rfl
@[simp] theorem State.setReg_pc : (s.setReg x b).pc = s.pc := rfl
@[simp] theorem State.setReg_i : (s.setReg x b).i = s.i := rfl
@[simp] theorem State.setReg_stack : (s.setReg x b).stack = s.stack := rfl
@[simp] theorem State.setReg_sp : (s.setReg x b).sp = s.sp := rfl
@[simp] theorem State.setReg_dt : (s.setReg x b).dt = s.dt := rfl
@[simp] theorem State.setReg_st : (s.setReg x b).st = s.st := rfl
@[simp] theorem State.setReg_keys : (s.setReg x b).keys = s.keys := rfl
@[simp] theorem State.setReg_fb : (s.setReg x b).fb = s.fb := rfl
@[simp] theorem State.setReg_ir : (s.setReg x b).ir = s.ir := rfl
@[simp] theorem State.setReg_fault : (s.setReg x b).fault = s.fault := rfl
@[simp] theorem State.setReg_draws : (s.setReg x b).draws = s.draws := rfl

end setReg

section setRegs

variable (s : State) (v : Vector Byte 16)

@[simp] theorem State.setRegs_v : (s.setRegs v).v = v := rfl
@[simp] theorem State.setRegs_mem : (s.setRegs v).mem = s.mem := rfl
@[simp] theorem State.setRegs_pc : (s.setRegs v).pc = s.pc := rfl
@[simp] theorem State.setRegs_i : (s.setRegs v).i = s.i := rfl
@[simp] theorem State.setRegs_stack : (s.setRegs v).stack = s.stack := rfl
@[simp] theorem State.setRegs_sp : (s.setRegs v).sp = s.sp := rfl
@[simp] theorem State.setRegs_dt : (s.setRegs v).dt = s.dt := rfl
@[simp] theorem State.setRegs_st : (s.setRegs v).st = s.st := rfl
@[simp] theorem State.setRegs_keys : (s.setRegs v).keys = s.keys := rfl
@[simp] theorem State.setRegs_fb : (s.setRegs v).fb = s.fb := rfl
@[simp] theorem State.setRegs_ir : (s.setRegs v).ir = s.ir := rfl
@[simp] theorem State.setRegs_fault : (s.setRegs v).fault = s.fault := rfl
@[simp] theorem State.setRegs_draws : (s.setRegs v).draws = s.draws := rfl

end setRegs

section setPc

variable (s : State) (a : Word)

@[simp] theorem State.setPc_v : (s.setPc a).v = s.v := rfl
@[simp] theorem State.setPc_mem : (s.setPc a).mem = s.mem := rfl
@[simp] theorem State.setPc_pc : (s.setPc a).pc = a := rfl
@[simp] theorem State.setPc_i : (s.setPc a).i = s.i := rfl
@[simp] theorem State.setPc_stack : (s.setPc a).stack = s.stack := rfl
@[simp] theorem State.setPc_sp : (s.setPc a).sp = s.sp := rfl
@[simp] theorem State.setPc_dt : (s.setPc a).dt = s.dt := rfl
@[simp] theorem State.setPc_st : (s.setPc a).st = s.st := rfl
@[simp] theorem State.setPc_keys : (s.setPc a).keys = s.keys := rfl
@[simp] theorem State.setPc_fb : (s.setPc a).fb = s.fb := rfl
@[simp] theorem State.setPc_ir : (s.setPc a).ir = s.ir := rfl
@[simp] theorem State.setPc_fault : (s.setPc a).fault = s.fault := rfl
@[simp] theorem State.setPc_draws : (s.setPc a).draws = s.draws := rfl

end setPc

section setI

variable (s : State) (a : Word)

@[simp] theorem State.setI_v : (s.setI a).v = s.v := rfl
@[simp] theorem State.setI_mem : (s.setI a).mem = s.mem := rfl
@[simp] theorem State.setI_pc : (s.setI a).pc = s.pc := rfl
@[simp] theorem State.setI_i : (s.setI a).i = a := rfl
@[simp] theorem State.setI_stack : (s.setI a).stack = s.stack := rfl
@[simp] theorem State.setI_sp : (s.setI a).sp = s.sp := rfl
@[simp] theorem State.setI_dt : (s.setI a).dt = s.dt := rfl
@[simp] theorem State.setI_st : (s.setI a).st = s.st := rfl
@[simp] theorem State.setI_keys : (s.setI a).keys = s.keys := rfl
@[simp] theorem State.setI_fb : (s.setI a).fb = s.fb := rfl
@[simp] theorem State.setI_ir : (s.setI a).ir = s.ir := rfl
@[simp] theorem State.setI_fault : (s.setI a).fault = s.fault := rfl
@[simp] theorem State.setI_draws : (s.setI a).draws = s.draws := rfl

end setI

section setDt

variable (s : State) (b : Byte)

@[simp] theorem State.setDt_v : (s.setDt b).v = s.v := rfl
@[simp] theorem State.setDt_mem : (s.setDt b).mem = s.mem := rfl
@[simp] theorem State.setDt_pc : (s.setDt b).pc = s.pc := rfl
@[simp] theorem State.setDt_i : (s.setDt b).i = s.i := rfl
@[simp] theorem State.setDt_stack : (s.setDt b).stack = s.stack := rfl
@[simp] theorem State.setDt_sp : (s.setDt b).sp = s.sp := rfl
@[simp] theorem State.setDt_dt : (s.setDt b).dt = b := rfl
@[simp] theorem State.setDt_st : (s.setDt b).st = s.st := rfl
@[simp] theorem State.setDt_keys : (s.setDt b).keys = s.keys := rfl
@[simp] theorem State.setDt_fb : (s.setDt b).fb = s.fb := rfl
@[simp] theorem State.setDt_ir : (s.setDt b).ir = s.ir := rfl
@[simp] theorem State.setDt_fault : (s.setDt b).fault = s.fault := rfl
@[simp] theorem State.setDt_draws : (s.setDt b).draws = s.draws := rfl

end setDt

section setSt

variable (s : State) (b : Byte)

@[simp] theorem State.setSt_v : (s.setSt b).v = s.v := rfl
@[simp] theorem State.setSt_mem : (s.setSt b).mem = s.mem := rfl
@[simp] theorem State.setSt_pc : (s.setSt b).pc = s.pc := rfl
@[simp] theorem State.setSt_i : (s.setSt b).i = s.i := rfl
@[simp] theorem State.setSt_stack : (s.setSt b).stack = s.stack := rfl
@[simp] theorem State.setSt_sp : (s.setSt b).sp = s.sp := rfl
@[simp] theorem State.setSt_dt : (s.setSt b).dt = s.dt := rfl
@[simp] theorem State.setSt_st : (s.setSt b).st = b := rfl
@[simp] theorem State.setSt_keys : (s.setSt b).keys = s.keys := rfl
@[simp] theorem State.setSt_fb : (s.setSt b).fb = s.fb := rfl
@[simp] theorem State.setSt_ir : (s.setSt b).ir = s.ir := rfl
@[simp] theorem State.setSt_fault : (s.setSt b).fault = s.fault := rfl
@[simp] theorem State.setSt_draws : (s.setSt b).draws = s.draws := rfl

end setSt

section setFb

variable (s : State) (fb : Framebuffer)

@[simp] theorem State.setFb_v : (s.setFb fb).v = s.v := rfl
@[simp] theorem State.setFb_mem : (s.setFb fb).mem = s.mem := rfl
@[simp] theorem State.setFb_pc : (s.setFb fb).pc = s.pc := rfl
@[simp] theorem State.setFb_i : (s.setFb fb).i = s.i := rfl
@[simp] theorem State.setFb_stack : (s.setFb fb).stack = s.stack := rfl
@[simp] theorem State.setFb_sp : (s.setFb fb).sp = s.sp := rfl
@[simp] theorem State.setFb_dt : (s.setFb fb).dt = s.dt := rfl
@[simp] theorem State.setFb_st : (s.setFb fb).st = s.st := rfl
@[simp] theorem State.setFb_keys : (s.setFb fb).keys = s.keys := rfl
@[simp] theorem State.setFb_fb : (s.setFb fb).fb = fb := rfl
@[simp] theorem State.setFb_ir : (s.setFb fb).ir = s.ir := rfl
@[simp] theorem State.setFb_fault : (s.setFb fb).fault = s.fault := rfl
@[simp] theorem State.setFb_draws : (s.setFb fb).draws = s.draws := rfl

end setFb

section setKeys

variable (s : State) (keys : Vector Bool 16)

@[simp] theorem State.setKeys_v : (s.setKeys keys).v = s.v := rfl
@[simp] theorem State.setKeys_mem : (s.setKeys keys).mem = s.mem := rfl
@[simp] theorem State.setKeys_pc : (s.setKeys keys).pc = s.pc := rfl
@[simp] theorem State.setKeys_i : (s.setKeys keys).i = s.i := rfl
@[simp] theorem State.setKeys_stack : (s.setKeys keys).stack = s.stack := rfl
@[simp] theorem State.setKeys_sp : (s.setKeys keys).sp = s.sp := rfl
@[simp] theorem State.setKeys_dt : (s.setKeys keys).dt = s.dt := rfl
@[simp] theorem State.setKeys_st : (s.setKeys keys).st = s.st := rfl
@[simp] theorem State.setKeys_keys : (s.setKeys keys).keys = keys := rfl
@[simp] theorem State.setKeys_fb : (s.setKeys keys).fb = s.fb := rfl
@[simp] theorem State.setKeys_ir : (s.setKeys keys).ir = s.ir := rfl
@[simp] theorem State.setKeys_fault : (s.setKeys keys).fault = s.fault := rfl
@[simp] theorem State.setKeys_draws : (s.setKeys keys).draws = s.draws := rfl

end setKeys

section writeBytes

variable (s : State) (a : Nat) (bs : List Byte)

@[simp] theorem State.writeBytes_v : (s.writeBytes a bs).v = s.v := rfl
@[simp] theorem State.writeBytes_mem : (s.writeBytes a bs).mem = memWriteBytes s.mem a bs := rfl
@[simp] theorem State.writeBytes_pc : (s.writeBytes a bs).pc = s.pc := rfl
@[simp] theorem State.writeBytes_i : (s.writeBytes a bs).i = s.i := rfl
@[simp] theorem State.writeBytes_stack : (s.writeBytes a bs).stack = s.stack := rfl
@[simp] theorem State.writeBytes_sp : (s.writeBytes a bs).sp = s.sp := rfl
@[simp] theorem State.writeBytes_dt : (s.writeBytes a bs).dt = s.dt := rfl
@[simp] theorem State.writeBytes_st : (s.writeBytes a bs).st = s.st := rfl
@[simp] theorem State.writeBytes_keys : (s.writeBytes a bs).keys = s.keys := rfl
@[simp] theorem State.writeBytes_fb : (s.writeBytes a bs).fb = s.fb := rfl
@[simp] theorem State.writeBytes_ir : (s.writeBytes a bs).ir = s.ir := rfl
@[simp] theorem State.writeBytes_fault : (s.writeBytes a bs).fault = s.fault := rfl
@[simp] theorem State.writeBytes_draws : (s.writeBytes a bs).draws = s.draws := rfl

end writeBytes

section pushReturn

variable (s : State)

@[simp] theorem State.pushReturn_v : (s.pushReturn).v = s.v := rfl
@[simp] theorem State.pushReturn_mem : (s.pushReturn).mem = s.mem := rfl
@[simp] theorem State.pushReturn_pc : (s.pushReturn).pc = s.pc := rfl
@[simp] theorem State.pushReturn_i : (s.pushReturn).i = s.i := rfl
@[simp] theorem State.pushReturn_stack : (s.pushReturn).stack = s.stack.set s.sp s.pc s.sp.isLt := rfl
@[simp] theorem State.pushReturn_sp : (s.pushReturn).sp = s.sp + 1 := rfl
@[simp] theorem State.pushReturn_dt : (s.pushReturn).dt = s.dt := rfl
@[simp] theorem State.pushReturn_st : (s.pushReturn).st = s.st := rfl
@[simp] theorem State.pushReturn_keys : (s.pushReturn).keys = s.keys := rfl
@[simp] theorem State.pushReturn_fb : (s.pushReturn).fb = s.fb := rfl
@[simp] theorem State.pushReturn_ir : (s.pushReturn).ir = s.ir := rfl
@[simp] theorem State.pushReturn_fault : (s.pushReturn).fault = s.fault := rfl
@[simp] theorem State.pushReturn_draws : (s.pushReturn).draws = s.draws := rfl

end pushReturn

section popReturn

variable (s : State)

@[simp] theorem State.popReturn_v : (s.popReturn).v = s.v := rfl
@[simp] theorem State.popReturn_mem : (s.popReturn).mem = s.mem := rfl
@[simp] theorem State.popReturn_pc : (s.popReturn).pc = s.slot (s.sp - 1) := rfl
@[simp] theorem State.popReturn_i : (s.popReturn).i = s.i := rfl
@[simp] theorem State.popReturn_stack : (s.popReturn).stack = s.stack := rfl
@[simp] theorem State.popReturn_sp : (s.popReturn).sp = s.sp - 1 := rfl
@[simp] theorem State.popReturn_dt : (s.popReturn).dt = s.dt := rfl
@[simp] theorem State.popReturn_st : (s.popReturn).st = s.st := rfl
@[simp] theorem State.popReturn_keys : (s.popReturn).keys = s.keys := rfl
@[simp] theorem State.popReturn_fb : (s.popReturn).fb = s.fb := rfl
@[simp] theorem State.popReturn_ir : (s.popReturn).ir = s.ir := rfl
@[simp] theorem State.popReturn_fault : (s.popReturn).fault = s.fault := rfl
@[simp] theorem State.popReturn_draws : (s.popReturn).draws = s.draws := rfl

end popReturn

section consumeDraw

variable (s : State)

@[simp] theorem State.consumeDraw_v : (s.consumeDraw).v = s.v := rfl
@[simp] theorem State.consumeDraw_mem : (s.consumeDraw).mem = s.mem := rfl
@[simp] theorem State.consumeDraw_pc : (s.consumeDraw).pc = s.pc := rfl
@[simp] theorem State.consumeDraw_i : (s.consumeDraw).i = s.i := rfl
@[simp] theorem State.consumeDraw_stack : (s.consumeDraw).stack = s.stack := rfl
@[simp] theorem State.consumeDraw_sp : (s.consumeDraw).sp = s.sp := rfl
@[simp] theorem State.consumeDraw_dt : (s.consumeDraw).dt = s.dt := rfl
@[simp] theorem State.consumeDraw_st : (s.consumeDraw).st = s.st := rfl
@[simp] theorem State.consumeDraw_keys : (s.consumeDraw).keys = s.keys := rfl
@[simp] theorem State.consumeDraw_fb : (s.consumeDraw).fb = s.fb := rfl
@[simp] theorem State.consumeDraw_ir : (s.consumeDraw).ir = s.ir := rfl
@[simp] theorem State.consumeDraw_fault : (s.consumeDraw).fault = s.fault := rfl
@[simp] theorem State.consumeDraw_draws : (s.consumeDraw).draws = s.draws + 1 := rfl

end consumeDraw

section takeFault

variable (s : State) (c : Fault)

@[simp] theorem State.takeFault_v : (s.takeFault c).v = s.v := rfl
@[simp] theorem State.takeFault_mem : (s.takeFault c).mem = s.mem := rfl
@[simp] theorem State.takeFault_pc : (s.takeFault c).pc = s.pc - 2 := rfl
@[simp] theorem State.takeFault_i : (s.takeFault c).i = s.i := rfl
@[simp] theorem State.takeFault_stack : (s.takeFault c).stack = s.stack := rfl
@[simp] theorem State.takeFault_sp : (s.takeFault c).sp = s.sp := rfl
@[simp] theorem State.takeFault_dt : (s.takeFault c).dt = s.dt := rfl
@[simp] theorem State.takeFault_st : (s.takeFault c).st = s.st := rfl
@[simp] theorem State.takeFault_keys : (s.takeFault c).keys = s.keys := rfl
@[simp] theorem State.takeFault_fb : (s.takeFault c).fb = s.fb := rfl
@[simp] theorem State.takeFault_ir : (s.takeFault c).ir = s.ir := rfl
@[simp] theorem State.takeFault_fault : (s.takeFault c).fault = some c := rfl
@[simp] theorem State.takeFault_draws : (s.takeFault c).draws = s.draws := rfl

end takeFault

section fetched

variable (s : State)

@[simp] theorem State.fetched_v : (s.fetched).v = s.v := rfl
@[simp] theorem State.fetched_mem : (s.fetched).mem = s.mem := rfl
@[simp] theorem State.fetched_pc : (s.fetched).pc = s.pc + 2 := rfl
@[simp] theorem State.fetched_i : (s.fetched).i = s.i := rfl
@[simp] theorem State.fetched_stack : (s.fetched).stack = s.stack := rfl
@[simp] theorem State.fetched_sp : (s.fetched).sp = s.sp := rfl
@[simp] theorem State.fetched_dt : (s.fetched).dt = s.dt := rfl
@[simp] theorem State.fetched_st : (s.fetched).st = s.st := rfl
@[simp] theorem State.fetched_keys : (s.fetched).keys = s.keys := rfl
@[simp] theorem State.fetched_fb : (s.fetched).fb = s.fb := rfl
@[simp] theorem State.fetched_ir : (s.fetched).ir = s.fetchWord := rfl
@[simp] theorem State.fetched_fault : (s.fetched).fault = s.fault := rfl
@[simp] theorem State.fetched_draws : (s.fetched).draws = s.draws := rfl

end fetched

section tick

variable (s : State)

@[simp] theorem State.tick_v : (s.tick).v = s.v := rfl
@[simp] theorem State.tick_mem : (s.tick).mem = s.mem := rfl
@[simp] theorem State.tick_pc : (s.tick).pc = s.pc := rfl
@[simp] theorem State.tick_i : (s.tick).i = s.i := rfl
@[simp] theorem State.tick_stack : (s.tick).stack = s.stack := rfl
@[simp] theorem State.tick_sp : (s.tick).sp = s.sp := rfl
@[simp] theorem State.tick_dt : (s.tick).dt = tickTimer s.dt := rfl
@[simp] theorem State.tick_st : (s.tick).st = tickTimer s.st := rfl
@[simp] theorem State.tick_keys : (s.tick).keys = s.keys := rfl
@[simp] theorem State.tick_fb : (s.tick).fb = s.fb := rfl
@[simp] theorem State.tick_ir : (s.tick).ir = s.ir := rfl
@[simp] theorem State.tick_fault : (s.tick).fault = s.fault := rfl
@[simp] theorem State.tick_draws : (s.tick).draws = s.draws := rfl

end tick

section setFlagged

variable (s : State) (x : RegIdx) (flag result : Byte)

@[simp] theorem State.setFlagged_v :
    (s.setFlagged x flag result).v = (s.v.set flagIdx flag flagIdx.isLt).set x result x.isLt := rfl
@[simp] theorem State.setFlagged_mem : (s.setFlagged x flag result).mem = s.mem := rfl
@[simp] theorem State.setFlagged_pc : (s.setFlagged x flag result).pc = s.pc := rfl
@[simp] theorem State.setFlagged_i : (s.setFlagged x flag result).i = s.i := rfl
@[simp] theorem State.setFlagged_stack : (s.setFlagged x flag result).stack = s.stack := rfl
@[simp] theorem State.setFlagged_sp : (s.setFlagged x flag result).sp = s.sp := rfl
@[simp] theorem State.setFlagged_dt : (s.setFlagged x flag result).dt = s.dt := rfl
@[simp] theorem State.setFlagged_st : (s.setFlagged x flag result).st = s.st := rfl
@[simp] theorem State.setFlagged_keys : (s.setFlagged x flag result).keys = s.keys := rfl
@[simp] theorem State.setFlagged_fb : (s.setFlagged x flag result).fb = s.fb := rfl
@[simp] theorem State.setFlagged_ir : (s.setFlagged x flag result).ir = s.ir := rfl
@[simp] theorem State.setFlagged_fault : (s.setFlagged x flag result).fault = s.fault := rfl
@[simp] theorem State.setFlagged_draws : (s.setFlagged x flag result).draws = s.draws := rfl

end setFlagged

section skipIf

variable (s : State) (taken : Bool)

@[simp] theorem State.skipIf_v : (s.skipIf taken).v = s.v := by cases taken <;> rfl
@[simp] theorem State.skipIf_mem : (s.skipIf taken).mem = s.mem := by cases taken <;> rfl
@[simp] theorem State.skipIf_i : (s.skipIf taken).i = s.i := by cases taken <;> rfl
@[simp] theorem State.skipIf_stack : (s.skipIf taken).stack = s.stack := by cases taken <;> rfl
@[simp] theorem State.skipIf_sp : (s.skipIf taken).sp = s.sp := by cases taken <;> rfl
@[simp] theorem State.skipIf_dt : (s.skipIf taken).dt = s.dt := by cases taken <;> rfl
@[simp] theorem State.skipIf_st : (s.skipIf taken).st = s.st := by cases taken <;> rfl
@[simp] theorem State.skipIf_keys : (s.skipIf taken).keys = s.keys := by cases taken <;> rfl
@[simp] theorem State.skipIf_fb : (s.skipIf taken).fb = s.fb := by cases taken <;> rfl
@[simp] theorem State.skipIf_ir : (s.skipIf taken).ir = s.ir := by cases taken <;> rfl
@[simp] theorem State.skipIf_fault : (s.skipIf taken).fault = s.fault := by cases taken <;> rfl
@[simp] theorem State.skipIf_draws : (s.skipIf taken).draws = s.draws := by cases taken <;> rfl

end skipIf

section placeWord

variable (s : State) (w : Word)

@[simp] theorem State.placeWord_v : (s.placeWord w).v = s.v := rfl
@[simp] theorem State.placeWord_mem : (s.placeWord w).mem = memWriteBytes s.mem s.pc.toNat (wordBytes w) := rfl
@[simp] theorem State.placeWord_pc : (s.placeWord w).pc = s.pc := rfl
@[simp] theorem State.placeWord_i : (s.placeWord w).i = s.i := rfl
@[simp] theorem State.placeWord_stack : (s.placeWord w).stack = s.stack := rfl
@[simp] theorem State.placeWord_sp : (s.placeWord w).sp = s.sp := rfl
@[simp] theorem State.placeWord_dt : (s.placeWord w).dt = s.dt := rfl
@[simp] theorem State.placeWord_st : (s.placeWord w).st = s.st := rfl
@[simp] theorem State.placeWord_keys : (s.placeWord w).keys = s.keys := rfl
@[simp] theorem State.placeWord_fb : (s.placeWord w).fb = s.fb := rfl
@[simp] theorem State.placeWord_ir : (s.placeWord w).ir = s.ir := rfl
@[simp] theorem State.placeWord_fault : (s.placeWord w).fault = none := rfl
@[simp] theorem State.placeWord_draws : (s.placeWord w).draws = s.draws := rfl

end placeWord

end Sys2Proof.Machine
end

