-- ==== Sys2Proof/Laws/Display.lean ====
section
/-!
SUPPORT. What plotting pixels, and a draw as a whole, do to the framebuffer and to the collision mark.
-/

namespace Sys2Proof.Machine

theorem getPixel_flipPixel (fb : Framebuffer) (x px : Fin Config.fbWidth) (y py : Fin Config.fbHeight) :
    getPixel (flipPixel fb x y) px py = if px = x ∧ py = y then !getPixel fb x y else getPixel fb px py := by
  have hx : (x.val = px.val) = (px = x) := by simp [Fin.ext_iff, eq_comm]
  have hy : (y.val = py.val) = (py = y) := by simp [Fin.ext_iff, eq_comm]
  by_cases h : py = y
  · subst h
    by_cases h' : px = x
    · subst h'
      simp [getPixel, flipPixel, Vector.get_eq_getElem]
    · simp [getPixel, flipPixel, Vector.get_eq_getElem, hx, h']
  · simp [getPixel, flipPixel, Vector.get_eq_getElem, hy, h]

@[simp] theorem getPixel_blankScreen (x : Fin Config.fbWidth) (y : Fin Config.fbHeight) :
    getPixel blankScreen x y = false := by
  simp [getPixel, blankScreen, Vector.get_eq_getElem]

/-- Plotting a list of distinct pixels flips exactly those, and marks a collision if one of them was lit before. -/
theorem foldl_plot (ps : List (Fin Config.fbWidth × Fin Config.fbHeight)) (hps : ps.Nodup) : ∀ d : Blit,
    (∀ x y, getPixel (ps.foldl (fun d p => plot p.1 p.2 d) d).fb x y =
      if (x, y) ∈ ps then !getPixel d.fb x y else getPixel d.fb x y) ∧
    ((ps.foldl (fun d p => plot p.1 p.2 d) d).hit = true ↔
      d.hit = true ∨ ∃ p ∈ ps, getPixel d.fb p.1 p.2 = true) := by
  induction ps with
  | nil => intro d; simp
  | cons p ps ih =>
    intro d
    obtain ⟨hp, hps⟩ := List.nodup_cons.1 hps
    obtain ⟨ihp, ihh⟩ := ih hps (plot p.1 p.2 d)
    have hflip : ∀ x y, getPixel (plot p.1 p.2 d).fb x y =
        if (x, y) = p then !getPixel d.fb x y else getPixel d.fb x y := by
      intro x y
      show getPixel (flipPixel d.fb p.1 p.2) x y = _
      rw [getPixel_flipPixel]
      by_cases h : (x, y) = p
      · subst h; simp
      · have : ¬(x = p.1 ∧ y = p.2) := fun e => h (Prod.ext e.1 e.2)
        simp [h, this]
    constructor
    · intro x y
      rw [List.foldl_cons, ihp, hflip]
      by_cases h : (x, y) = p
      · subst h; simp [hp]
      · simp [h]
    · rw [List.foldl_cons, ihh]
      have hsame : ∀ q ∈ ps, getPixel (plot p.1 p.2 d).fb q.1 q.2 = getPixel d.fb q.1 q.2 := by
        intro q hq
        rw [hflip, if_neg]
        rintro rfl
        exact hp hq
      have hex : (∃ q ∈ ps, getPixel (plot p.1 p.2 d).fb q.1 q.2 = true) ↔ ∃ q ∈ ps, getPixel d.fb q.1 q.2 = true := by
        constructor
        · rintro ⟨q, hq, h⟩; exact ⟨q, hq, (hsame q hq) ▸ h⟩
        · rintro ⟨q, hq, h⟩; exact ⟨q, hq, (hsame q hq).symm ▸ h⟩
      rw [hex]
      simp [plot, or_assoc]

/-! ### A draw as a whole (R192) -/

/-- The pixels under the 1 bits of a sprite, in drawing order. -/
def spritePixels (s : State) (vx vy : Byte) (n : Nat) : List (Fin Config.fbWidth × Fin Config.fbHeight) :=
  (List.range n).flatMap fun r =>
    ((List.range 8).filter fun c => (s.read (s.dataAddr r)).getLsbD (7 - c)).map fun c =>
      (spriteColumn vx c, spriteRow vy r)

/-- A draw plots those pixels one after another. -/
theorem State.blit_eq (s : State) (vx vy : Byte) (n : Nat) :
    s.blit vx vy n = (spritePixels s vx vy n).foldl (fun d p => plot p.1 p.2 d) { fb := s.fb, hit := false } := by
  simp only [State.blit, spritePixels, blitRow, List.foldl_flatMap, List.foldl_map, List.foldl_filter]

theorem mem_spritePixels {s : State} {vx vy : Byte} {n : Nat} {px : Fin Config.fbWidth} {py : Fin Config.fbHeight} :
    (px, py) ∈ spritePixels s vx vy n ↔ SpriteCovers s vx vy n px py := by
  simp only [spritePixels, SpriteCovers, List.mem_flatMap, List.mem_map, List.mem_filter, List.mem_range, Prod.mk.injEq,
    State.dataAddr]
  constructor
  · rintro ⟨r, hr, c, ⟨hc, hb⟩, rfl, rfl⟩
    exact ⟨r, hr, c, hc, hb, rfl, rfl⟩
  · rintro ⟨r, hr, c, hc, hb, hx, hy⟩
    exact ⟨r, hr, c, ⟨hc, hb⟩, Fin.ext hx.symm, Fin.ext hy.symm⟩

/-- No pixel is under two bits of a sprite: it has at most 8 columns and 15 rows. -/
theorem spritePixels_nodup (s : State) (vx vy : Byte) (n : Fin 16) : (spritePixels s vx vy n).Nodup := by
  have hn := n.isLt
  refine List.nodup_flatMap.2 ⟨fun r _ => ?_, ?_⟩
  · refine List.Nodup.map_on (fun c hc d hd h => ?_) (List.nodup_range.filter _)
    have hc := List.mem_range.1 (List.mem_filter.1 hc).1
    have hd := List.mem_range.1 (List.mem_filter.1 hd).1
    have h := congrArg (fun p => p.1.val) h
    simp only [spriteColumn, Fin.ofNat] at h
    omega
  · refine List.Pairwise.imp_of_mem ?_ List.nodup_range
    intro r q hr hq hne p hp hp'
    have hr := List.mem_range.1 hr
    have hq := List.mem_range.1 hq
    simp only [List.mem_map] at hp hp'
    obtain ⟨c, -, rfl⟩ := hp
    obtain ⟨d, -, h⟩ := hp'
    have h := congrArg (fun p => p.2.val) h
    simp only [spriteRow, Fin.ofNat] at h
    omega

/-- All that a draw does: the covered pixels are flipped, no other, and the mark says whether one of them was lit. -/
theorem State.blit_spec (s : State) (vx vy : Byte) (n : Fin 16) :
    (∀ x y, getPixel (s.blit vx vy n).fb x y = if (x, y) ∈ spritePixels s vx vy n then !s.pixel x y else s.pixel x y) ∧
    ((s.blit vx vy n).hit = true ↔ ∃ p ∈ spritePixels s vx vy n, s.pixel p.1 p.2 = true) := by
  rw [State.blit_eq]
  have h := foldl_plot _ (spritePixels_nodup s vx vy n) { fb := s.fb, hit := false }
  simpa [State.pixel] using h
end Sys2Proof.Machine
end

