-- ==== Sys2Proof/Laws/Exec.lean ====
section
/-!
SUPPORT. What a handler can do at all, for every instruction at once: when it faults, and which state only which
instruction writes. A fact about all Steps cites these and does not unfold the handlers.
-/

namespace Sys2Proof.Machine

/-- Every handler answers a next state. -/
theorem exec_next (i : Instr) (s : State) : ∃ t, exec i s = .next t := by
  cases i <;> simp only [exec] <;> first
    | exact ⟨_, rfl⟩
    | (simp only [execRet, execCall]; split <;> exact ⟨_, rfl⟩)
    | (simp only [execLdVxK]; split <;> exact ⟨_, rfl⟩)

/-- A handler raises a fault only as a CALL on a full stack or a RET on an empty one. -/
theorem exec_fault {i : Instr} {s t : State} (hs : s.fault = none) (h : exec i s = .next t) (ht : t.fault ≠ none) :
    (s.sp.val = 15 ∧ t.fault = some .stackOverflow ∧ ∃ nnn, i = .call nnn) ∨
    (s.sp.val = 0 ∧ t.fault = some .stackUnderflow ∧ ∃ pad, i = .ret pad) := by
  cases i <;> simp only [exec] at h
  case call nnn =>
    simp only [execCall] at h
    split at h
    · next hd => cases h; exact .inl ⟨hd, rfl, _, rfl⟩
    · cases h; exact absurd hs ht
  case ret pad =>
    simp only [execRet] at h
    split at h
    · next hd => cases h; exact .inr ⟨hd, rfl, _, rfl⟩
    · cases h; exact absurd hs ht
  case ldVxK =>
    simp only [execLdVxK] at h
    split at h <;> cases h <;> exact absurd hs ht
  all_goals
    cases h
    simp [hs] at ht

/-- The timers are written by their own instructions alone. -/
theorem exec_timers {i : Instr} {s t : State} (h : exec i s = .next t) :
    (∀ x, i = .ldDtVx x → t.dt = s.reg x) ∧ ((∀ x, i ≠ .ldDtVx x) → t.dt = s.dt) ∧
    (∀ x, i = .ldStVx x → t.st = s.reg x) ∧ ((∀ x, i ≠ .ldStVx x) → t.st = s.st) := by
  cases i <;> simp only [exec, execRet, execCall, execLdVxK] at h
  all_goals first
    | (cases h; simp)
    | (split at h <;> cases h <;> simp)

/-- Keys, memory, framebuffer, `I`, draws and the return stack are written by their own instructions alone. -/
theorem exec_access {i : Instr} {s t : State} (h : exec i s = .next t) :
    t.keys = s.keys ∧
    ((∀ x, i ≠ .ldB x) → (∀ x, i ≠ .ldMemVx x) → t.mem = s.mem) ∧
    ((∀ p, i ≠ .cls p) → (∀ x y n, i ≠ .drw x y n) → t.fb = s.fb) ∧
    ((∀ a, i ≠ .ldI a) → (∀ x, i ≠ .addI x) → (∀ x, i ≠ .ldF x) → t.i = s.i) ∧
    ((∀ x k, i ≠ .rnd x k) → t.draws = s.draws) ∧
    (∀ x k, i = .rnd x k → t.draws = s.draws + 1 ∧ t.fault = s.fault) ∧
    ((∀ a, i ≠ .call a) → t.stack = s.stack) ∧
    ((∀ a, i ≠ .call a) → (∀ p, i ≠ .ret p) → t.sp = s.sp) := by
  cases i <;> simp only [exec, execRet, execCall, execLdVxK] at h
  all_goals first
    | (cases h; simp)
    | (split at h <;> cases h <;> simp)

end Sys2Proof.Machine
end

