-- ==== Sys2Proof/Laws/Memory.lean ====
section
/-!
SUPPORT. What the memory operations do: a read gives back what was written last, other cells are left alone, the
canonical form is kept.
-/

namespace Sys2Proof.Machine

/-! ### Cells -/

theorem memCell_lt (a : Nat) : memCell a < Config.memSize := Nat.mod_lt _ (by decide)

@[simp] theorem memCell_memCell (a : Nat) : memCell (memCell a) = memCell a := Nat.mod_mod _ _

/-- Two addresses less than 4096 apart select different cells. -/
theorem memCell_add_inj {a j k : Nat} (hj : j < 4096) (hk : k < 4096) (h : memCell (a + j) = memCell (a + k)) :
    j = k := by
  simp only [memCell, Config.memSize] at h
  omega

/-! ### One cell -/

/-- Looking a cell up in a list with a head entry. -/
theorem lookup_cons_if (k : Nat) (c : Host.Cell) (m : Memory) :
    List.lookup k (c :: m) = if k = c.1 then some c.2 else List.lookup k m := by
  obtain ⟨c1, c2⟩ := c
  by_cases h : k = c1
  · simp [List.lookup, h]
  · have hb : (k == c1) = false := by simpa using h
    simp [List.lookup, hb, h]

theorem lookup_erase_same (m : Memory) (a : Nat) : (eraseByte m a).lookup a = none := by
  induction m with
  | nil => rfl
  | cons c m ih =>
    simp only [eraseByte] at ih
    by_cases h : c.1 = a
    · rw [eraseByte, List.filter_cons_of_neg (by simpa using h), ih]
    · rw [eraseByte, List.filter_cons_of_pos (by simpa using h), lookup_cons_if, if_neg fun e => h e.symm, ih]

theorem lookup_erase_other (m : Memory) {a k : Nat} (hk : k ≠ a) : (eraseByte m a).lookup k = m.lookup k := by
  induction m with
  | nil => rfl
  | cons c m ih =>
    simp only [eraseByte] at ih
    by_cases h : c.1 = a
    · rw [eraseByte, List.filter_cons_of_neg (by simpa using h), ih, lookup_cons_if, if_neg fun e => hk (e.trans h)]
    · rw [eraseByte, List.filter_cons_of_pos (by simpa using h), lookup_cons_if, ih, lookup_cons_if]

theorem lookup_insert_same (m : Memory) (a : Nat) (b : Byte) (hm : m.lookup a = none) :
    (insertByte a b m).lookup a = some b := by
  induction m with
  | nil => simp [insertByte]
  | cons c m ih =>
    rw [lookup_cons_if] at hm
    split at hm
    · cases hm
    · next hc =>
      rw [insertByte]
      split
      · simp
      · rw [lookup_cons_if, if_neg hc, ih hm]

theorem lookup_insert_other (m : Memory) {a k : Nat} (b : Byte) (hk : k ≠ a) :
    (insertByte a b m).lookup k = m.lookup k := by
  induction m with
  | nil => simp [insertByte, lookup_cons_if, hk]
  | cons c m ih =>
    rw [insertByte]
    split
    · rw [lookup_cons_if, if_neg hk]
    · rw [lookup_cons_if, ih, lookup_cons_if]

/-- A cell reads back what was stored in it. -/
theorem lookupByte_storeByte_same (m : Memory) (a : Nat) (b : Byte) : lookupByte (storeByte m a b) a = b := by
  unfold storeByte lookupByte
  split
  · next h => simp [lookup_erase_same, h]
  · simp [lookup_insert_same _ _ _ (lookup_erase_same m a)]

/-- A store leaves every other cell alone. -/
theorem lookupByte_storeByte_other (m : Memory) {a k : Nat} (b : Byte) (hk : k ≠ a) :
    lookupByte (storeByte m a b) k = lookupByte m k := by
  unfold storeByte lookupByte
  split
  · rw [lookup_erase_other _ hk]
  · rw [lookup_insert_other _ _ hk, lookup_erase_other _ hk]

/-! ### Bytes at wrapped addresses -/

theorem memRead_congr (m : Memory) {a b : Nat} (h : memCell a = memCell b) : memRead m a = memRead m b := by
  simp [memRead, h]

theorem memRead_memWrite_same (m : Memory) {a k : Nat} (b : Byte) (h : memCell k = memCell a) :
    memRead (memWrite m a b) k = b := by
  simp [memRead, memWrite, h, lookupByte_storeByte_same]

theorem memRead_memWrite_other (m : Memory) {a k : Nat} (b : Byte) (h : memCell k ≠ memCell a) :
    memRead (memWrite m a b) k = memRead m k := by
  simp [memRead, memWrite, lookupByte_storeByte_other _ _ h]

/-- A write of consecutive bytes leaves every cell outside them alone. -/
theorem memRead_memWriteBytes_other (bs : List Byte) : ∀ (m : Memory) (a k : Nat),
    (∀ j < bs.length, memCell k ≠ memCell (a + j)) → memRead (memWriteBytes m a bs) k = memRead m k := by
  induction bs with
  | nil => intros; rfl
  | cons b bs ih =>
    intro m a k h
    have h0 := h 0 (by simp)
    rw [memWriteBytes, ih, memRead_memWrite_other _ _ (by simpa using h0)]
    intro j hj
    have := h (j + 1) (by simp; omega)
    simpa [Nat.add_assoc, Nat.add_comm 1 j] using this

/-- A write of at most 4096 consecutive bytes is read back byte by byte. -/
theorem memRead_memWriteBytes_inside (bs : List Byte) : ∀ (m : Memory) (a j : Nat) (hj : j < bs.length),
    bs.length ≤ 4096 → memRead (memWriteBytes m a bs) (a + j) = bs[j] := by
  induction bs with
  | nil => intro m a j hj; simp at hj
  | cons b bs ih =>
    intro m a j hj hlen
    simp only [List.length_cons] at hj hlen
    cases j with
    | zero =>
      rw [memWriteBytes, memRead_memWriteBytes_other]
      · simpa using memRead_memWrite_same m b rfl
      · intro k hk h
        have := memCell_add_inj (j := 0) (k := k + 1) (a := a) (by omega) (by omega)
          (by simpa [Nat.add_assoc, Nat.add_comm 1 k] using h)
        omega
    | succ j =>
      have := ih (memWrite m a b) (a + 1) j (by omega) (by omega)
      simpa [memWriteBytes, Nat.add_assoc, Nat.add_comm 1 j] using this

@[simp] theorem State.read_writeBytes_nil (s : State) (a : Nat) : s.writeBytes a [] = s := rfl

/-! ### The canonical form -/

theorem mem_insertByte {a : Nat} {b : Byte} {m : Memory} {c : Host.Cell} :
    c ∈ insertByte a b m ↔ c = (a, b) ∨ c ∈ m := by
  induction m with
  | nil => simp [insertByte]
  | cons d m ih =>
    simp only [insertByte]
    split
    · simp
    · simp only [List.mem_cons, ih]
      tauto

theorem eraseByte_wf {m : Memory} (h : Memory.wf m) (a : Nat) : Memory.wf (eraseByte m a) := by
  refine ⟨h.1.filter _, fun c hc => h.2 c ?_⟩
  exact (List.mem_filter.1 hc).1

theorem insertByte_sorted {a : Nat} (b : Byte) {m : Memory} (h : m.Pairwise (fun c d => c.1 < d.1))
    (ha : ∀ c ∈ m, c.1 ≠ a) : (insertByte a b m).Pairwise (fun c d => c.1 < d.1) := by
  induction m with
  | nil => simp [insertByte]
  | cons c m ih =>
    rw [List.pairwise_cons] at h
    simp only [insertByte]
    split
    · next hlt =>
      refine List.pairwise_cons.2 ⟨fun d hd => ?_, List.pairwise_cons.2 h⟩
      rcases List.mem_cons.1 hd with rfl | hd
      · exact hlt
      · exact Nat.lt_trans hlt (h.1 d hd)
    · next hge =>
      refine List.pairwise_cons.2 ⟨fun d hd => ?_, ih h.2 fun d hd => ha d (List.mem_cons_of_mem _ hd)⟩
      rcases mem_insertByte.1 hd with rfl | hd
      · have := ha c List.mem_cons_self
        show c.1 < a
        omega
      · exact h.1 d hd

/-- A store into a cell inside memory keeps the canonical form. -/
theorem storeByte_wf {m : Memory} (h : Memory.wf m) {a : Nat} (ha : a < Config.memSize) (b : Byte) :
    Memory.wf (storeByte m a b) := by
  unfold storeByte
  split
  · exact eraseByte_wf h a
  · next hb =>
    have he := eraseByte_wf h a
    refine ⟨insertByte_sorted b he.1 fun c hc => ?_, fun c hc => ?_⟩
    · have := (List.mem_filter.1 hc).2
      simpa using this
    · rcases mem_insertByte.1 hc with rfl | hc
      · exact ⟨ha, hb⟩
      · exact he.2 c hc

theorem memWrite_wf {m : Memory} (h : Memory.wf m) (a : Nat) (b : Byte) : Memory.wf (memWrite m a b) :=
  storeByte_wf h (memCell_lt a) b

theorem memWriteBytes_wf (bs : List Byte) : ∀ {m : Memory}, Memory.wf m → ∀ a, Memory.wf (memWriteBytes m a bs) := by
  induction bs with
  | nil => intro m h a; exact h
  | cons b bs ih => intro m h a; exact ih (memWrite_wf h a b) (a + 1)

/-- The state's memory keeps the canonical form under a write of bytes. -/
theorem State.writeBytes_wf {s : State} (h : Memory.wf s.mem) (a : Nat) (bs : List Byte) :
    Memory.wf (s.writeBytes a bs).mem := memWriteBytes_wf bs h a

end Sys2Proof.Machine
end

