-- ==== Sys2Proof/Laws/PerInstr.lean ====
section
/-!
SUPPORT. A statement made per instruction, about instructions as syntax.
-/

namespace Sys2Proof.Laws.TableRow

/-- An instruction's word lies in its row of the opcode map: masked, it is the row's match value
(spec/30_encoding.md R103). -/
def Statement (i : Instr) : Prop := encode i &&& rowMask i = rowMatch i

theorem cls (pad : Byte) : Statement (.cls pad) := by
  simp only [Statement, encode, rowMask, rowMatch, and_nibbleMask, fieldN_packClass0]
  rw [fieldOp_packClass0 (by decide)]
  decide

theorem ret (pad : Byte) : Statement (.ret pad) := by
  simp only [Statement, encode, rowMask, rowMatch, and_nibbleMask, fieldN_packClass0]
  rw [fieldOp_packClass0 (by decide)]
  decide

theorem jp (nnn : Addr12) : Statement (.jp nnn) := by
  simp only [Statement, encode, rowMask, rowMatch, and_classMask, fieldOp_packNNN]
  decide

theorem call (nnn : Addr12) : Statement (.call nnn) := by
  simp only [Statement, encode, rowMask, rowMatch, and_classMask, fieldOp_packNNN]
  decide

theorem seImm (x : RegIdx) (kk : Byte) : Statement (.seImm x kk) := by
  simp only [Statement, encode, rowMask, rowMatch, and_classMask, fieldOp_packXKK]
  decide

theorem sneImm (x : RegIdx) (kk : Byte) : Statement (.sneImm x kk) := by
  simp only [Statement, encode, rowMask, rowMatch, and_classMask, fieldOp_packXKK]
  decide

theorem seReg (x y : RegIdx) (pad : Nibble) : Statement (.seReg x y pad) := by
  simp only [Statement, encode, rowMask, rowMatch, and_classMask]
  rw [fieldOp_packXYN x.isLt y.isLt pad.isLt]
  decide

theorem ldImm (x : RegIdx) (kk : Byte) : Statement (.ldImm x kk) := by
  simp only [Statement, encode, rowMask, rowMatch, and_classMask, fieldOp_packXKK]
  decide

theorem addImm (x : RegIdx) (kk : Byte) : Statement (.addImm x kk) := by
  simp only [Statement, encode, rowMask, rowMatch, and_classMask, fieldOp_packXKK]
  decide

theorem ldReg (x y : RegIdx) : Statement (.ldReg x y) := by
  simp only [Statement, encode, rowMask, rowMatch, and_nibbleMask, fieldN_packXYN]
  rw [fieldOp_packXYN x.isLt y.isLt (by decide)]
  decide

theorem orReg (x y : RegIdx) : Statement (.orReg x y) := by
  simp only [Statement, encode, rowMask, rowMatch, and_nibbleMask, fieldN_packXYN]
  rw [fieldOp_packXYN x.isLt y.isLt (by decide)]
  decide

theorem andReg (x y : RegIdx) : Statement (.andReg x y) := by
  simp only [Statement, encode, rowMask, rowMatch, and_nibbleMask, fieldN_packXYN]
  rw [fieldOp_packXYN x.isLt y.isLt (by decide)]
  decide

theorem xorReg (x y : RegIdx) : Statement (.xorReg x y) := by
  simp only [Statement, encode, rowMask, rowMatch, and_nibbleMask, fieldN_packXYN]
  rw [fieldOp_packXYN x.isLt y.isLt (by decide)]
  decide

theorem addReg (x y : RegIdx) : Statement (.addReg x y) := by
  simp only [Statement, encode, rowMask, rowMatch, and_nibbleMask, fieldN_packXYN]
  rw [fieldOp_packXYN x.isLt y.isLt (by decide)]
  decide

theorem subReg (x y : RegIdx) : Statement (.subReg x y) := by
  simp only [Statement, encode, rowMask, rowMatch, and_nibbleMask, fieldN_packXYN]
  rw [fieldOp_packXYN x.isLt y.isLt (by decide)]
  decide

theorem shr (x : RegIdx) (pad : Nibble) : Statement (.shr x pad) := by
  simp only [Statement, encode, rowMask, rowMatch, and_nibbleMask, fieldN_packXYN]
  rw [fieldOp_packXYN x.isLt pad.isLt (by decide)]
  decide

theorem subnReg (x y : RegIdx) : Statement (.subnReg x y) := by
  simp only [Statement, encode, rowMask, rowMatch, and_nibbleMask, fieldN_packXYN]
  rw [fieldOp_packXYN x.isLt y.isLt (by decide)]
  decide

theorem shl (x : RegIdx) (pad : Nibble) : Statement (.shl x pad) := by
  simp only [Statement, encode, rowMask, rowMatch, and_nibbleMask, fieldN_packXYN]
  rw [fieldOp_packXYN x.isLt pad.isLt (by decide)]
  decide

theorem sneReg (x y : RegIdx) (pad : Nibble) : Statement (.sneReg x y pad) := by
  simp only [Statement, encode, rowMask, rowMatch, and_classMask]
  rw [fieldOp_packXYN x.isLt y.isLt pad.isLt]
  decide

theorem ldI (nnn : Addr12) : Statement (.ldI nnn) := by
  simp only [Statement, encode, rowMask, rowMatch, and_classMask, fieldOp_packNNN]
  decide

theorem jpV0 (nnn : Addr12) : Statement (.jpV0 nnn) := by
  simp only [Statement, encode, rowMask, rowMatch, and_classMask, fieldOp_packNNN]
  decide

theorem rnd (x : RegIdx) (kk : Byte) : Statement (.rnd x kk) := by
  simp only [Statement, encode, rowMask, rowMatch, and_classMask, fieldOp_packXKK]
  decide

theorem drw (x y : RegIdx) (n : Fin 16) : Statement (.drw x y n) := by
  simp only [Statement, encode, rowMask, rowMatch, and_classMask]
  rw [fieldOp_packXYN x.isLt y.isLt n.isLt]
  decide

theorem skp (x : RegIdx) (pad : Nibble) : Statement (.skp x pad) := by
  simp only [Statement, encode, rowMask, rowMatch, and_nibbleMask, fieldN_packXYN]
  rw [fieldOp_packXYN x.isLt pad.isLt (by decide)]
  decide

theorem sknp (x : RegIdx) (pad : Nibble) : Statement (.sknp x pad) := by
  simp only [Statement, encode, rowMask, rowMatch, and_nibbleMask, fieldN_packXYN]
  rw [fieldOp_packXYN x.isLt pad.isLt (by decide)]
  decide

theorem ldVxDt (x : RegIdx) : Statement (.ldVxDt x) := by
  simp only [Statement, encode, rowMask, rowMatch, and_byteMask, fieldOp_packXKK, fieldKK_packXKK]
  decide

theorem ldVxK (x : RegIdx) : Statement (.ldVxK x) := by
  simp only [Statement, encode, rowMask, rowMatch, and_byteMask, fieldOp_packXKK, fieldKK_packXKK]
  decide

theorem ldDtVx (x : RegIdx) : Statement (.ldDtVx x) := by
  simp only [Statement, encode, rowMask, rowMatch, and_byteMask, fieldOp_packXKK, fieldKK_packXKK]
  decide

theorem ldStVx (x : RegIdx) : Statement (.ldStVx x) := by
  simp only [Statement, encode, rowMask, rowMatch, and_byteMask, fieldOp_packXKK, fieldKK_packXKK]
  decide

theorem addI (x : RegIdx) : Statement (.addI x) := by
  simp only [Statement, encode, rowMask, rowMatch, and_byteMask, fieldOp_packXKK, fieldKK_packXKK]
  decide

theorem ldF (x : RegIdx) : Statement (.ldF x) := by
  simp only [Statement, encode, rowMask, rowMatch, and_byteMask, fieldOp_packXKK, fieldKK_packXKK]
  decide

theorem ldB (x : RegIdx) : Statement (.ldB x) := by
  simp only [Statement, encode, rowMask, rowMatch, and_byteMask, fieldOp_packXKK, fieldKK_packXKK]
  decide

theorem ldMemVx (x : RegIdx) : Statement (.ldMemVx x) := by
  simp only [Statement, encode, rowMask, rowMatch, and_byteMask, fieldOp_packXKK, fieldKK_packXKK]
  decide

theorem ldVxMem (x : RegIdx) : Statement (.ldVxMem x) := by
  simp only [Statement, encode, rowMask, rowMatch, and_byteMask, fieldOp_packXKK, fieldKK_packXKK]
  decide

theorem nop (word : Word) : Statement (.nop word) := BitVec.and_zero

end Sys2Proof.Laws.TableRow
end

