-- ==== Sys2Proof/Laws/Registers.lean ====
section
/-!
SUPPORT. What the operations on registers, keys, the return stack and the operand forms give, each said once.
-/

namespace Sys2Proof.Machine

/-! ### General registers -/

theorem State.reg_setReg (s : State) (x r : RegIdx) (b : Byte) :
    (s.setReg x b).reg r = if r = x then b else s.reg r := by
  have h : (x.val = r.val) = (r = x) := by simp [Fin.ext_iff, eq_comm]
  simp [State.reg, State.setReg, Vector.get_eq_getElem, Vector.getElem_set, h]

@[simp] theorem State.reg_setReg_same (s : State) (x : RegIdx) (b : Byte) : (s.setReg x b).reg x = b := by
  simp [State.reg_setReg]

theorem State.reg_setReg_other (s : State) {x r : RegIdx} (b : Byte) (h : r ≠ x) : (s.setReg x b).reg r = s.reg r := by
  simp [State.reg_setReg, h]

/-- The result is written last: it stays even in `VF`. -/
theorem State.reg_setFlagged (s : State) (x r : RegIdx) (f b : Byte) :
    (s.setFlagged x f b).reg r = if r = x then b else if r = flagIdx then f else s.reg r := by
  simp [State.setFlagged, State.reg_setReg]

/-- All that a flagged write does: the result, the flag unless it is the destination, no other register, nothing
else. -/
theorem State.setFlagged_spec (s : State) (x : RegIdx) (f b : Byte) :
    (s.setFlagged x f b).reg x = b ∧ (x ≠ 15 → (s.setFlagged x f b).reg 15 = f) ∧
    RegsKeptBut [x, 15] s (s.setFlagged x f b) ∧ KeptBut [.regs] s (s.setFlagged x f b) := by
  refine ⟨by simp [State.reg_setFlagged], fun h => by simp [State.reg_setFlagged, flagIdx, Ne.symm h], fun r hr => ?_,
    fun p hp => ?_⟩
  · simp at hr
    simp [State.reg_setFlagged, hr, flagIdx]
  · cases p <;> simp_all [PartKept, State.read, State.slot, State.key, State.pixel]

/-- The block load writes `V[0..x]` and no other register. -/
theorem State.reg_loadedBlock (s : State) (x r : RegIdx) :
    (s.setRegs (s.loadedBlock x)).reg r = if r ≤ x then s.read (s.i.toNat + r) else s.reg r := by
  simp [State.reg, State.loadedBlock, Vector.get_eq_getElem, State.dataAddr]

theorem State.length_regBlock (s : State) (x : RegIdx) : (s.regBlock x).length = x.val + 1 := by
  have := x.isLt
  simp [State.regBlock]

theorem State.getElem_regBlock (s : State) (x k : RegIdx) (h : k.val < (s.regBlock x).length) :
    (s.regBlock x)[k.val] = s.reg k := by
  simp [State.regBlock, State.reg, Vector.get_eq_getElem]

/-! ### Skips -/

theorem State.skipIf_pc (s : State) (b : Bool) : (s.skipIf b).pc = if b then s.pc + 2 else s.pc := by
  cases b <;> rfl

/-- A skip changes nothing but the program counter. -/
theorem State.skipIf_kept (s : State) (b : Bool) : KeptBut [.pc] s (s.skipIf b) := by
  intro p hp
  cases b <;> cases p <;> simp_all [PartKept, State.skipIf, State.reg, State.read, State.slot, State.key, State.pixel]

/-! ### Keys -/

/-- The lowest pressed key is pressed and no lower key is. -/
theorem State.lowestKey_some {s : State} {k : Fin 16} (h : s.lowestKey = some k) :
    s.key k = true ∧ ∀ j < k, s.key j = false := by
  obtain ⟨hk, as, bs, hl, has⟩ := List.find?_eq_some_iff_append.1 h
  refine ⟨hk, fun j hj => ?_⟩
  have hs : (as ++ k :: bs).Pairwise (· < ·) := hl ▸ List.pairwise_lt_finRange 16
  have hj' : j ∈ as ++ k :: bs := hl ▸ List.mem_finRange j
  rcases List.mem_append.1 hj' with hm | hm
  · simpa using has j hm
  · exfalso
    rcases List.mem_cons.1 hm with rfl | hm
    · exact lt_irrefl _ hj
    · exact lt_asymm hj ((List.pairwise_cons.1 (List.pairwise_append.1 hs).2.1).1 j hm)

/-- No key is reported only where none is pressed. -/
theorem State.lowestKey_none {s : State} : s.lowestKey = none ↔ ∀ k, s.key k = false := by
  simp [State.lowestKey]

/-! ### Return stack -/

theorem State.slot_pushReturn (s : State) (k : Fin 16) :
    s.pushReturn.slot k = if k = s.sp then s.pc else s.slot k := by
  have h : (s.sp.val = k.val) = (k = s.sp) := by simp [Fin.ext_iff, eq_comm]
  simp [State.slot, State.pushReturn, Vector.get_eq_getElem, Vector.getElem_set, h]

/-- Below the top, a push raises the pointer by one. -/
theorem State.pushReturn_sp_val {s : State} (h : s.sp.val ≠ Config.stackMaxDepth) :
    s.pushReturn.sp.val = s.sp.val + 1 := by
  have := s.sp.isLt
  simp only [State.pushReturn_sp, Fin.val_add, Fin.val_one]
  simp only [Config.stackMaxDepth] at h
  omega

/-- Above the bottom, a pop lowers the pointer by one. -/
theorem State.popReturn_sp_val {s : State} (h : s.sp.val ≠ 0) : s.popReturn.sp.val = s.sp.val - 1 := by
  have := s.sp.isLt
  simp only [State.popReturn_sp, Fin.sub_def]
  show (15 + s.sp.val) % 16 = _
  omega

/-! ### Timers -/

/-- A tick lowers a timer by one and stops at 0. -/
theorem tickTimer_toNat (t : Byte) : (tickTimer t).toNat = t.toNat - 1 := by
  unfold tickTimer
  split
  · next h => simp [h]
  · next h =>
    have : t.toNat ≠ 0 := fun e => h (BitVec.eq_of_toNat_eq e)
    have := t.isLt
    rw [BitVec.toNat_sub]
    simp
    omega

end Sys2Proof.Machine
end

