-- ==== Sys2Proof/Laws/Step.lean ====
section
/-!
SUPPORT. Everything a Step can do, said once; every fact about all Steps is a case analysis over it.
-/

namespace Sys2Proof.Machine

/-- Where the end of a Step answers a next state: the ticked state of a handler that raised no fault, or the state
before the Step with the latch set. -/
theorem finishStep_next {before t : State} {o : Host.Outcome State Fault Refusal}
    (h : finishStep before o = .next t) :
    ∃ u, o = .next u ∧
      ((u.fault = none ∧ t = u.tick) ∨ ∃ c, u.fault = some c ∧ t = { before with fault := some c }) := by
  cases o with
  | next u =>
    refine ⟨u, rfl, ?_⟩
    simp only [finishStep] at h
    split at h
    · next hf => exact .inl ⟨hf, (Host.Outcome.next.inj h).symm⟩
    · next c hf => exact .inr ⟨c, hf, (Host.Outcome.next.inj h).symm⟩
  | fault c => cases h
  | refused r => cases h

theorem finishStep_ready {before u : State} (h : u.fault = none) : finishStep before (.next u) = .next u.tick := by
  simp [finishStep, h]

theorem finishStep_faulted {before u : State} {c : Fault} (h : u.fault = some c) :
    finishStep before (.next u) = .next { before with fault := some c } := by
  simp [finishStep, h]

/-- A Step from a ready state is its handler's outcome, finished. -/
theorem step_ready {s : State} (h : s.fault = none) :
    step s = finishStep s (exec (decodeWord s.fetchWord) s.fetched) := by
  simp [step, h]

/-- A Step under a latched fault does nothing. -/
theorem step_faulted {s : State} {c : Fault} (h : s.fault = some c) : step s = .next s := by
  simp [step, h]

/-- All that a Step can do. -/
theorem step_cases {s t : State} (h : step s = .next t) :
    (s.fault ≠ none ∧ t = s) ∨
    (s.fault = none ∧ ∃ u, exec (decodeWord s.fetchWord) s.fetched = .next u ∧
      ((u.fault = none ∧ t = u.tick) ∨ ∃ c, u.fault = some c ∧ t = { s with fault := some c })) := by
  cases hf : s.fault with
  | some c =>
    rw [step_faulted hf] at h
    exact .inl ⟨by simp, (Host.Outcome.next.inj h).symm⟩
  | none =>
    rw [step_ready hf] at h
    exact .inr ⟨rfl, finishStep_next h⟩

end Sys2Proof.Machine
end

