-- ==== Sys2Proof/Tests/Slice0.lean ====
section
/-!
SUPPORT. The model's own tests: the ill-formed terms, one word per row of the opcode map, single Steps with the
results of spec/95_test_vectors.md (its vector is named at each test), and, for every obligation that has hypotheses,
a state and operands that meet them.
-/

namespace Sys2Proof.Machine

/-! ### Well-formedness -/

/-- A no-op for a word of a row is refused. -/
theorem test_nop_of_assigned_word_is_ill_formed :
    (Instr.nop 0x1234).wellFormed = false ∧ (Instr.nop 0x0000).wellFormed = false ∧
    (Instr.nop 0x800E).wellFormed = false ∧ (Instr.nop 0xE0A1).wellFormed = false ∧
    (Instr.nop 0xF00A).wellFormed = false := by decide

theorem test_nop_of_unassigned_word_is_well_formed :
    (Instr.nop 0x0FFF).wellFormed = true ∧ (Instr.nop 0x8AB8).wellFormed = true ∧
    (Instr.nop 0xE19D).wellFormed = true ∧ (Instr.nop 0xF130).wellFormed = true := by decide

/-! ### One word per row of R103, written from the row's format with distinct operands -/

theorem test_decode_cls : decodeWord 0x00E0 = .cls 0x0E := by decide
theorem test_decode_ret : decodeWord 0x00EE = .ret 0x0E := by decide
theorem test_decode_jp : decodeWord 0x1ABC = .jp 0xABC := by decide
theorem test_decode_call : decodeWord 0x2300 = .call 0x300 := by decide
theorem test_decode_seImm : decodeWord 0x3107 = .seImm 1 0x07 := by decide
theorem test_decode_sneImm : decodeWord 0x4B2C = .sneImm 11 0x2C := by decide
theorem test_decode_seReg : decodeWord 0x5127 = .seReg 1 2 7 := by decide
theorem test_decode_ldImm : decodeWord 0x6C5A = .ldImm 12 0x5A := by decide
theorem test_decode_addImm : decodeWord 0x71FF = .addImm 1 0xFF := by decide
theorem test_decode_ldReg : decodeWord 0x8120 = .ldReg 1 2 := by decide
theorem test_decode_orReg : decodeWord 0x8121 = .orReg 1 2 := by decide
theorem test_decode_andReg : decodeWord 0x8122 = .andReg 1 2 := by decide
theorem test_decode_xorReg : decodeWord 0x8123 = .xorReg 1 2 := by decide
theorem test_decode_addReg : decodeWord 0x8124 = .addReg 1 2 := by decide
theorem test_decode_subReg : decodeWord 0x8125 = .subReg 1 2 := by decide
theorem test_decode_shr : decodeWord 0x8126 = .shr 1 2 := by decide
theorem test_decode_subnReg : decodeWord 0x8127 = .subnReg 1 2 := by decide
theorem test_decode_shl : decodeWord 0x812E = .shl 1 2 := by decide
theorem test_decode_sneReg : decodeWord 0x912F = .sneReg 1 2 0xF := by decide
theorem test_decode_ldI : decodeWord 0xA2F0 = .ldI 0x2F0 := by decide
theorem test_decode_jpV0 : decodeWord 0xB2FE = .jpV0 0x2FE := by decide
theorem test_decode_rnd : decodeWord 0xC3F0 = .rnd 3 0xF0 := by decide
theorem test_decode_drw : decodeWord 0xD125 = .drw 1 2 5 := by decide
theorem test_decode_skp : decodeWord 0xE49E = .skp 4 9 := by decide
theorem test_decode_sknp : decodeWord 0xE4A1 = .sknp 4 0xA := by decide
theorem test_decode_ldVxDt : decodeWord 0xF207 = .ldVxDt 2 := by decide
theorem test_decode_ldVxK : decodeWord 0xF50A = .ldVxK 5 := by decide
theorem test_decode_ldDtVx : decodeWord 0xF215 = .ldDtVx 2 := by decide
theorem test_decode_ldStVx : decodeWord 0xF218 = .ldStVx 2 := by decide
theorem test_decode_addI : decodeWord 0xF21E = .addI 2 := by decide
theorem test_decode_ldF : decodeWord 0xF329 = .ldF 3 := by decide
theorem test_decode_ldB : decodeWord 0xF433 = .ldB 4 := by decide
theorem test_decode_ldMemVx : decodeWord 0xFF55 = .ldMemVx 15 := by decide
theorem test_decode_ldVxMem : decodeWord 0xF265 = .ldVxMem 2 := by decide
/-- The unassigned words of vectors vS2 to vS5. -/
theorem test_decode_nop :
    decodeWord 0x8AB8 = .nop 0x8AB8 ∧ decodeWord 0x0001 = .nop 0x0001 ∧ decodeWord 0x0FFF = .nop 0x0FFF ∧
    decodeWord 0xE1A2 = .nop 0xE1A2 ∧ decodeWord 0xF185 = .nop 0xF185 := by decide

/-- The decoder reads bytes high first (R63), and one byte alone is refused. -/
theorem test_decode_bytes :
    decode [0x12, 0x34, 0x56] = .ok (.jp 0x234, [0x56]) ∧ decode [0x12] = .error .truncated ∧
    decodeTableWord 16 0x1234 = some (.jp 0x234) := by decide

/-! ### Single Steps -/

/-- The reset state changed by `prep`, with the word `w` at `PC`. -/
def ready (w : Word) (prep : State → State := id) : State := (prep State.reset).placeWord w

/-- What `look` sees after one Step of `w` from the reset state changed by `prep`. -/
def after {α : Type} (w : Word) (prep : State → State) (look : State → α) : Option α :=
  match step (ready w prep) with
  | .next t => some (look t)
  | .fault _ | .refused _ => none

/-- Only the keys of the list pressed. -/
def pressed (ks : List (Fin 16)) : Vector Bool 16 := Vector.ofFn fun k => k ∈ ks

/-- vP1, vS7: CLS leaves `VF`. -/
theorem test_cls : after 0x00E0 (fun s => (s.setFb (flipPixel s.fb 5 5)).setReg 15 7)
    (fun t => (t.pixel 5 5, t.reg 15, t.pc)) = some (false, 7, 0x202) := by decide
/-- vS6: the zero word is CLS. -/
theorem test_cls_zero_word : after 0x0000 (fun s => s.setFb (flipPixel s.fb 3 3))
    (fun t => (t.pixel 3 3, t.pc)) = some (false, 0x202) := by decide

/-- vC6. -/
theorem test_ret : after 0x00EE
    (fun s => { s with sp := 2, stack := (s.stack.set 0 0x0111).set 1 0x0ABC })
    (fun t => (t.sp, t.pc, t.slot 1)) = some (1, 0x0ABC, 0x0ABC) := by decide
/-- vC5. -/
theorem test_ret_underflow : after 0x00EE (fun s => s.setDt 5)
    (fun t => (t.fault, t.pc, t.sp, t.dt)) = some (some .stackUnderflow, 0x200, 0, 5) := by decide

/-- vC2. -/
theorem test_jp : after 0x1FFF id (fun t => t.pc) = some 0x0FFF := by decide

/-- vC3. -/
theorem test_call : after 0x2400 (fun s => { s with pc := 0x300, sp := 14 })
    (fun t => (t.slot 14, t.sp, t.pc)) = some (0x0302, 15, 0x0400) := by decide
/-- vC4. -/
theorem test_call_overflow : after 0x2400 (fun s => { s with pc := 0x300, sp := 15, dt := 5 })
    (fun t => (t.fault, t.pc, t.sp, t.slot 15, t.dt)) = some (some .stackOverflow, 0x300, 15, 0, 5) := by decide

/-- vK1. -/
theorem test_seImm : after 0x3000 id (fun t => t.pc) = some 0x204 := by decide
/-- vK14. -/
theorem test_seImm_wraps : after 0x3000 (fun s => s.setPc 0xFFFC) (fun t => t.pc) = some 0x0000 := by decide
/-- vK4. -/
theorem test_sneImm_equal : after 0x4000 id (fun t => t.pc) = some 0x202 := by decide
/-- vK5. -/
theorem test_sneImm : after 0x4001 id (fun t => t.pc) = some 0x204 := by decide
/-- vS9. -/
theorem test_seReg : after 0x5127 (fun s => (s.setReg 1 9).setReg 2 9) (fun t => t.pc) = some 0x204 := by decide
/-- vK8. -/
theorem test_seReg_differ : after 0x5120 (fun s => s.setReg 1 0xFF) (fun t => t.pc) = some 0x202 := by decide
/-- vK9. -/
theorem test_sneReg : after 0x9120 (fun s => s.setReg 1 0xFF) (fun t => t.pc) = some 0x204 := by decide
/-- vK7. -/
theorem test_sneReg_same : after 0x9330 (fun s => s.setReg 3 0x80) (fun t => t.pc) = some 0x202 := by decide

/-- EX1, second instance. -/
theorem test_ldImm : after 0x6FFF id (fun t => (t.reg 15, t.pc)) = some (0xFF, 0x202) := by decide
/-- vA1. -/
theorem test_addImm : after 0x7101 (fun s => (s.setReg 1 0xFF).setReg 15 0xEE)
    (fun t => (t.reg 1, t.reg 15)) = some (0x00, 0xEE) := by decide
/-- vA4. -/
theorem test_ldReg : after 0x8120 (fun s => (s.setReg 1 0x12).setReg 2 0x34)
    (fun t => (t.reg 1, t.reg 2)) = some (0x34, 0x34) := by decide
/-- vA5. -/
theorem test_orReg : after 0x8121 (fun s => ((s.setReg 1 0xAA).setReg 2 0x55).setReg 15 0xEE)
    (fun t => (t.reg 1, t.reg 15)) = some (0xFF, 0xEE) := by decide
/-- R164's example. -/
theorem test_andReg : after 0x8122 (fun s => (s.setReg 1 0x3C).setReg 2 0x0F)
    (fun t => t.reg 1) = some 0x0C := by decide
/-- vA7. -/
theorem test_xorReg : after 0x8123 (fun s => (s.setReg 1 0xAA).setReg 2 0xFF)
    (fun t => t.reg 1) = some 0x55 := by decide
/-- EX2. -/
theorem test_addReg : after 0x8124 (fun s => (s.setReg 1 250).setReg 2 10)
    (fun t => (t.reg 1, t.reg 15)) = some (4, 1) := by decide
/-- vF2. -/
theorem test_addReg_flag_operand : after 0x81F4 (fun s => (s.setReg 1 200).setReg 15 100)
    (fun t => (t.reg 1, t.reg 15)) = some (44, 1) := by decide
/-- vA14. -/
theorem test_subReg_equal : after 0x8125 (fun s => (s.setReg 1 7).setReg 2 7)
    (fun t => (t.reg 1, t.reg 15)) = some (0, 1) := by decide
/-- vF3. -/
theorem test_subReg_flag_destination : after 0x8F15 (fun s => (s.setReg 15 5).setReg 1 10)
    (fun t => t.reg 15) = some 251 := by decide
/-- vA17. -/
theorem test_subnReg : after 0x8127 (fun s => (s.setReg 1 0x05).setReg 2 0x0A)
    (fun t => (t.reg 1, t.reg 15)) = some (0x05, 1) := by decide
/-- vA18. -/
theorem test_subnReg_borrow : after 0x8127 (fun s => (s.setReg 1 0x0A).setReg 2 0x05)
    (fun t => (t.reg 1, t.reg 15)) = some (0xFB, 0) := by decide
/-- vA21. -/
theorem test_shr : after 0x8126 (fun s => s.setReg 1 0xFF)
    (fun t => (t.reg 1, t.reg 2, t.reg 15)) = some (0x7F, 0, 1) := by decide
/-- vF5. -/
theorem test_shr_flag_destination : after 0x8F06 (fun s => s.setReg 15 6) (fun t => t.reg 15) = some 3 := by decide
/-- EX4. -/
theorem test_shl : after 0x810E (fun s => s.setReg 1 0x81)
    (fun t => (t.reg 1, t.reg 15)) = some (0x02, 1) := by decide
/-- vA24. -/
theorem test_shl_no_carry : after 0x812E (fun s => s.setReg 1 0x40)
    (fun t => (t.reg 1, t.reg 15)) = some (0x80, 0) := by decide

/-- vI1. -/
theorem test_ldI : after 0xA000 (fun s => s.setI 0xFFFF) (fun t => t.i) = some 0x0000 := by decide
/-- vC9. -/
theorem test_jpV0 : after 0xBFFF (fun s => s.setReg 0 0xFF) (fun t => t.pc) = some 0x10FE := by decide
/-- vC10. -/
theorem test_jpV0_reads_register_zero : after 0xB300 (fun s => s.setReg 3 0x10)
    (fun t => t.pc) = some 0x0300 := by decide
/-- vI9: the mask 0 gives 0 whatever the draw. -/
theorem test_rnd : ∀ s : State, ∃ t, execRnd 3 0x00 s = .next t ∧ t.reg 3 = 0 ∧ t.draws = s.draws + 1 :=
  fun s => ⟨_, rfl, by simp, rfl⟩
/-- vI4. -/
theorem test_addI_wraps : after 0xF21E (fun s => (s.setI 0xFFFF).setReg 2 2) (fun t => t.i) = some 0x0001 := by decide
/-- vI3. -/
theorem test_addI : after 0xF21E (fun s => ((s.setI 0x0FFF).setReg 2 1).setReg 15 0xEE)
    (fun t => (t.i, t.reg 15)) = some (0x1000, 0xEE) := by decide
/-- vI6, vI7, with the default base of R6. -/
theorem test_ldF : glyphAddr Config.defaultGlyphBase (lowNibble 0x0F) = 0x009B ∧
    glyphAddr Config.defaultGlyphBase (lowNibble 0xF5) = 0x0069 := by decide
/-- R62, vL1: the glyph of digit A at its address, with the default base and table; zero on either side of the table. -/
theorem test_glyph_cells :
    (List.range 5).map (fun k => glyphCell 0x050 Config.defaultGlyphTable (0x082 + k)) =
      [0xF0, 0x90, 0xF0, 0x90, 0x90] ∧
    glyphCell 0x050 Config.defaultGlyphTable 0x04F = 0 ∧ glyphCell 0x050 Config.defaultGlyphTable 0x0A0 = 0 := by decide

/-- EX8. -/
theorem test_drw_wraps : after 0xD011
    (fun s => (((s.setI 0x300).setReg 0 63).setReg 1 5).writeBytes 0x300 [0xC0])
    (fun t => (t.pixel 63 5, t.pixel 0 5, t.pixel 1 5, t.reg 15)) = some (true, true, false, 0) := by decide
/-- vP6. -/
theorem test_drw_collision : after 0xD011
    (fun s => ((((s.setI 0x300).setReg 0 10).setReg 1 10).writeBytes 0x300 [0xC0]).setFb (flipPixel s.fb 11 10))
    (fun t => (t.pixel 10 10, t.pixel 11 10, t.reg 15, t.i)) = some (true, false, 1, 0x300) := by decide

/-- vK12. -/
theorem test_skp : after 0xE49E (fun s => (s.setReg 4 0x1A).setKeys (pressed [10]))
    (fun t => t.pc) = some 0x204 := by decide
/-- vK13. -/
theorem test_skp_key_of_value : after 0xE49E (fun s => (s.setReg 4 9).setKeys (pressed [4]))
    (fun t => t.pc) = some 0x202 := by decide
/-- vK11. -/
theorem test_sknp_down : after 0xE4A1 (fun s => (s.setReg 4 0x0F).setKeys (pressed [15]))
    (fun t => t.pc) = some 0x202 := by decide
/-- vS12. -/
theorem test_sknp : after 0xE501 (fun s => s.setReg 5 2) (fun t => t.pc) = some 0x204 := by decide

/-- vT1. -/
theorem test_ldVxDt : after 0xF207 (fun s => s.setDt 9) (fun t => (t.reg 2, t.dt)) = some (9, 8) := by decide
/-- vT8. -/
theorem test_ldVxK : after 0xF50A (fun s => s.setKeys (pressed [7, 3]))
    (fun t => (t.reg 5, t.pc)) = some (3, 0x202) := by decide
/-- vT7. -/
theorem test_ldVxK_waits : after 0xF50A (fun s => (s.setReg 5 0xAA).setDt 2)
    (fun t => (t.pc, t.reg 5, t.dt)) = some (0x200, 0xAA, 1) := by decide
/-- vT3. -/
theorem test_ldDtVx : after 0xF215 (fun s => s.setReg 2 60) (fun t => t.dt) = some 59 := by decide
/-- vT5. -/
theorem test_ldDtVx_zero : after 0xF215 (fun s => s.setDt 7) (fun t => t.dt) = some 0 := by decide
/-- vT6. -/
theorem test_ldStVx : after 0xF218 (fun s => (s.setReg 2 2).setDt 5) (fun t => (t.st, t.dt)) = some (1, 4) := by decide

/-- EX9. -/
theorem test_ldB : after 0xF433 (fun s => (s.setReg 4 255).setI 0x300)
    (fun t => (t.read 0x300, t.read 0x301, t.read 0x302, t.i)) = some (2, 5, 5, 0x300) := by decide
/-- vM2. -/
theorem test_ldB_leading_zeros : after 0xF433 (fun s => ((s.setReg 4 7).setI 0x300).writeBytes 0x300 [9, 9, 9])
    (fun t => (t.read 0x300, t.read 0x301, t.read 0x302)) = some (0, 0, 7) := by decide
/-- vM7. -/
theorem test_ldMemVx : after 0xF055 (fun s => ((s.setReg 0 0x11).setReg 1 0x22).setI 0x300)
    (fun t => (t.read 0x300, t.read 0x301, t.i)) = some (0x11, 0, 0x300) := by decide
/-- vM11. -/
theorem test_ldMemVx_high_index : after 0xF055 (fun s => (s.setReg 0 0x5A).setI 0x1300)
    (fun t => (t.read 0x300, t.i)) = some (0x5A, 0x1300) := by decide
/-- vM9. -/
theorem test_ldVxMem : after 0xF265 (fun s => ((s.setI 0x300).setReg 3 0xEE).writeBytes 0x300 [1, 2, 3, 4])
    (fun t => (t.reg 0, t.reg 1, t.reg 2, t.reg 3, t.i)) = some (1, 2, 3, 0xEE, 0x300) := by decide

/-- vS2. -/
theorem test_nop : after 0x8AB8 (fun s => (s.setDt 3).setSt 1)
    (fun t => (t.pc, t.dt, t.st)) = some (0x202, 2, 0) := by decide
/-- vS15. -/
theorem test_nop_wraps : after 0x8AB8 (fun s => s.setPc 0xFFFE) (fun t => t.pc) = some 0x0000 := by decide

/-- vS18: nothing happens under a latched fault. -/
theorem test_step_faulted :
    let s : State := { (ready 0x6011).setDt 5 with fault := some .stackUnderflow }
    step s = .next s := rfl
/-- vS14: an odd `PC`. -/
theorem test_odd_pc : after 0x612A (fun s => s.setPc 0x201) (fun t => (t.reg 1, t.pc)) = some (0x2A, 0x203) := by decide
/-- EX11. -/
theorem test_load : ∃ t, State.reset.loadImage [0xDE, 0xAD, 0xBE] = .next t ∧
    (t.read 0x200, t.read 0x201, t.read 0x202, t.read 0x203) = (0xDE, 0xAD, 0xBE, 0x00) := ⟨_, rfl, by decide⟩
/-- vL3. -/
theorem test_load_too_large : State.reset.loadImage (List.replicate 3585 0xAB) = .refused .imageTooLarge :=
  if_neg (by rw [List.length_replicate]; decide)
/-- Writing back the reset contents removes the entry. -/
theorem test_canonical_write :
    ((State.reset.writeBytes 0x300 [1, 2]).writeBytes 0x300 [0]).mem = [(0x301, 2)] ∧
    (State.reset.writeBytes 0x1300 [7]).mem = [(0x300, 7)] := by decide

/-! ### Witnesses: a state and operands that meet the hypotheses of each obligation that has some -/

/-- For a Step from a concrete state: the state it answers. -/
def stepped (s : State) : State :=
  match step s with
  | .next t => t
  | .fault _ | .refused _ => s

theorem witness_EncodeThenDecodeGivesInstructionBack :
    (Instr.nop 0xF1FF).wellFormed = true ∧ (Instr.drw 15 15 15).wellFormed = true := by decide

theorem witness_DecoderSelectsTheMatchingRow :
    (∀ u, Instr.ldVxMem 2 ≠ .nop u) ∧ 0xF265#16 &&& rowMask (.ldVxMem 2) = rowMatch (.ldVxMem 2) ∧
    (∀ u, Instr.cls 0 ≠ .nop u) ∧ 0x0001#16 &&& rowMask (.cls 0) ≠ rowMatch (.cls 0) :=
  ⟨nofun, by decide, nofun, by decide⟩

theorem witness_ClassesZeroAndEDecodeOnLowNibble :
    (0x0FFF#16).extractLsb' 12 4 = 0x0#4 ∧ (0xEFFE#16).extractLsb' 12 4 = 0xE#4 := by decide

theorem witness_ClassesEightAndFDecodeOnTheirKeys :
    (0x8FFF#16).extractLsb' 12 4 = 0x8#4 ∧ (0xF065#16).extractLsb' 12 4 = 0xF#4 := by decide

theorem witness_UnassignedWordsAreNoOps :
    (ready 0x8AB8).ready ∧ unassigned (ready 0x8AB8).fetchWord = true := by decide

theorem witness_DontCareBitsHaveNoEffect :
    (0x00E0#16 &&& 0xF00F#16 = 0x0120#16 &&& 0xF00F#16 ∧ fieldOp 0x00E0 = 0x0#4 ∧ fieldN 0x00E0 = 0x0#4) ∧
    (0x0ABE#16 &&& 0xF00F#16 = 0x00EE#16 &&& 0xF00F#16 ∧ fieldOp 0x0ABE = 0x0#4 ∧ fieldN 0x0ABE = 0xE#4) ∧
    (0x5127#16 &&& 0xFFF0#16 = 0x5120#16 &&& 0xFFF0#16 ∧ fieldOp 0x5127 = 0x5#4) ∧
    (0x912F#16 &&& 0xFFF0#16 = 0x9120#16 &&& 0xFFF0#16 ∧ fieldOp 0x912F = 0x9#4) ∧
    (0x8126#16 &&& 0xFF0F#16 = 0x8106#16 &&& 0xFF0F#16 ∧ fieldOp 0x8126 = 0x8#4 ∧ fieldN 0x8126 = 0x6#4) ∧
    (0xE49E#16 &&& 0xFF0F#16 = 0xE40E#16 &&& 0xFF0F#16 ∧ fieldOp 0xE49E = 0xE#4 ∧ fieldN 0xE49E = 0xE#4) := by decide

theorem witness_StepRunsTheDecodedInstruction :
    let s := ready 0x6C5A
    s.ready ∧ decode [s.read s.pc.toNat, s.read (s.pc.toNat + 1)] = .ok (.ldImm 12 0x5A, []) := by decide

/-- A state with a latched fault. -/
def faulted : State := { State.reset with fault := some .stackUnderflow }

theorem witness_FaultedEngineNeverChanges : ¬ faulted.ready := by decide

/-- A CALL with 15 return addresses held. -/
def fullStack : State := ready 0x2400 fun s => { s with sp := 15 }

/-- Both faults: an overflow and an underflow. -/
theorem witness_FaultingStepCommitsOnlyTheLatch :
    (fullStack.ready ∧ step fullStack = .next (stepped fullStack) ∧ ¬ (stepped fullStack).ready) ∧
    ((ready 0x00EE).ready ∧ step (ready 0x00EE) = .next (stepped (ready 0x00EE)) ∧
      ¬ (stepped (ready 0x00EE)).ready) :=
  ⟨⟨by decide, rfl, by decide⟩, ⟨by decide, rfl, by decide⟩⟩

/-- The clauses: a Step of LD DT, Vx (with the greatest value), of LD ST, Vx (with 0), of LD Vx, DT, and of neither. -/
theorem witness_TimersTickAtTheEndOfEveryStep :
    (let s := ready 0xF215 fun s => s.setReg 2 255
     s.ready ∧ step s = .next (stepped s) ∧ (stepped s).ready ∧ decodeWord s.fetchWord = .ldDtVx 2 ∧
      ∀ x, decodeWord s.fetchWord ≠ .ldStVx x) ∧
    (let s := ready 0xF218
     s.ready ∧ step s = .next (stepped s) ∧ (stepped s).ready ∧ decodeWord s.fetchWord = .ldStVx 2 ∧
      ∀ x, decodeWord s.fetchWord ≠ .ldDtVx x) ∧
    (let s := ready 0xF207 fun s => s.setDt 9
     s.ready ∧ step s = .next (stepped s) ∧ (stepped s).ready ∧ decodeWord s.fetchWord = .ldVxDt 2) :=
  ⟨⟨by decide, rfl, by decide, by decide, by decide⟩, ⟨by decide, rfl, by decide, by decide, by decide⟩,
    ⟨by decide, rfl, by decide, by decide⟩⟩

/-- A Step of LD Vx, kk, which is none of the instructions the access statements name. -/
theorem stepped_ldImm : step (ready 0x6C5A) = .next (stepped (ready 0x6C5A)) := rfl

theorem fetchWord_ldImm : decodeWord (ready 0x6C5A).fetchWord = .ldImm 12 0x5A := by decide

theorem witness_OnlyStoresWriteMemoryAndOnlyDrawsWriteScreen :
    step (ready 0x6C5A) = .next (stepped (ready 0x6C5A)) ∧
    (∀ x, decodeWord (ready 0x6C5A).fetchWord ≠ .ldB x) ∧ (∀ x, decodeWord (ready 0x6C5A).fetchWord ≠ .ldMemVx x) ∧
    (∀ p, decodeWord (ready 0x6C5A).fetchWord ≠ .cls p) ∧
    ∀ x y n, decodeWord (ready 0x6C5A).fetchWord ≠ .drw x y n := by
  rw [fetchWord_ldImm]
  exact ⟨stepped_ldImm, nofun, nofun, nofun, nofun⟩

/-- The clauses: no index load and no draw; a draw; a latched fault. -/
theorem witness_OnlyIndexLoadsWriteIndexAndOnlyRandomDraws :
    (step (ready 0x6C5A) = .next (stepped (ready 0x6C5A)) ∧
      (∀ a, decodeWord (ready 0x6C5A).fetchWord ≠ .ldI a) ∧ (∀ x, decodeWord (ready 0x6C5A).fetchWord ≠ .addI x) ∧
      (∀ x, decodeWord (ready 0x6C5A).fetchWord ≠ .ldF x) ∧
      ∀ x kk, decodeWord (ready 0x6C5A).fetchWord ≠ .rnd x kk) ∧
    (step (ready 0xC3F0) = .next (stepped (ready 0xC3F0)) ∧ (ready 0xC3F0).ready ∧
      decodeWord (ready 0xC3F0).fetchWord = .rnd 3 0xF0) ∧
    (step faulted = .next faulted ∧ ¬ faulted.ready) := by
  rw [fetchWord_ldImm]
  exact ⟨⟨stepped_ldImm, nofun, nofun, nofun, nofun⟩, ⟨rfl, by decide, by decide⟩, rfl, by decide⟩

/-- A register beside the destination, and `VF` where it is no flag. -/
theorem witness_RegistersAreWrittenOnlyByTheirInstructions :
    step (ready 0x6C5A) = .next (stepped (ready 0x6C5A)) ∧ ¬ writesReg (decodeWord (ready 0x6C5A).fetchWord) 11 ∧
    ¬ writesReg (decodeWord (ready 0x6C5A).fetchWord) 15 := by
  rw [fetchWord_ldImm]
  exact ⟨stepped_ldImm, by simp [writesReg], by simp [writesReg]⟩

/-- The clauses: neither CALL nor RET; a CALL, at the greatest depth that succeeds; a RET. -/
theorem witness_OnlyCallAndReturnTouchTheStack :
    (step (ready 0x6C5A) = .next (stepped (ready 0x6C5A)) ∧ (∀ a, decodeWord (ready 0x6C5A).fetchWord ≠ .call a) ∧
      ∀ p, decodeWord (ready 0x6C5A).fetchWord ≠ .ret p) ∧
    (let s := ready 0x2400 fun s => { s with sp := 14 }
     step s = .next (stepped s) ∧ decodeWord s.fetchWord = .call 0x400 ∧ (15 : Fin 16) ≠ s.sp) ∧
    (let s := ready 0x00EE fun s => { s with sp := 1 }
     step s = .next (stepped s) ∧ decodeWord s.fetchWord = .ret 0x0E) := by
  rw [fetchWord_ldImm]
  exact ⟨⟨stepped_ldImm, nofun, nofun⟩, ⟨rfl, by decide, by decide⟩, rfl, by decide⟩

/-- The clauses: a plain instruction, a skip, a key wait. -/
theorem witness_ProgramCounterMovesByTwoOrAsItsInstructionSays :
    ((ready 0x6C5A).ready ∧ step (ready 0x6C5A) = .next (stepped (ready 0x6C5A)) ∧ (stepped (ready 0x6C5A)).ready ∧
      jumps (decodeWord (ready 0x6C5A).fetchWord) = false ∧ skips (decodeWord (ready 0x6C5A).fetchWord) = false ∧
      ∀ x, decodeWord (ready 0x6C5A).fetchWord ≠ .ldVxK x) ∧
    ((ready 0x3000).ready ∧ step (ready 0x3000) = .next (stepped (ready 0x3000)) ∧ (stepped (ready 0x3000)).ready ∧
      skips (decodeWord (ready 0x3000).fetchWord) = true) ∧
    ((ready 0xF50A).ready ∧ step (ready 0xF50A) = .next (stepped (ready 0xF50A)) ∧ (stepped (ready 0xF50A)).ready ∧
      decodeWord (ready 0xF50A).fetchWord = .ldVxK 5) :=
  ⟨⟨by decide, rfl, by decide, by decide, by decide, by decide⟩, ⟨by decide, rfl, by decide, by decide⟩,
    ⟨by decide, rfl, by decide, by decide⟩⟩

theorem witness_SoundTimerInfluencesNothingElse :
    step (ready 0xF218 fun s => s.setReg 2 2) = .next (stepped (ready 0xF218 fun s => s.setReg 2 2)) := rfl

theorem witness_InstructionRegisterInfluencesNothingElse : step (ready 0x6C5A) = .next (stepped (ready 0x6C5A)) := rfl

/-- A RET with one address held, and another stack that agrees on that one slot. -/
theorem witness_DeadStackSlotsAreUnobservable :
    let s := ready 0x00EE fun s => { s with sp := 1 }
    (∀ k : Fin 16, k < s.sp → (s.stack.set 1 0xABC).get k = s.slot k) ∧ step s = .next (stepped s) :=
  ⟨by decide, rfl⟩

/-- A state with one listed cell. -/
theorem witness_StepKeepsMemoryCanonical :
    Memory.wf [(0x300, 7)] ∧
    (let s : State := { State.reset with mem := [(0x300, 7)] }
     step s = .next (stepped s)) := ⟨by decide, rfl⟩

/-- Each of the four actions has a next session. -/
theorem witness_HostActionsKeepMemoryCanonical :
    Memory.wf Session.start.machine.mem ∧ (∃ d, hostAct .reset Session.start = .next d) ∧
    (∃ d, hostAct (.load [0x12, 0x00]) Session.start = .next d) ∧
    (∃ d, hostAct (.keys (pressed [3])) Session.start = .next d) ∧ ∃ d, hostAct .step Session.start = .next d :=
  ⟨by decide, ⟨_, rfl⟩, ⟨_, rfl⟩, ⟨_, rfl⟩, _, rfl⟩

/-- A load into a fresh session. -/
theorem witness_ProgramStartsFromResetValues :
    Session.start.phase ≠ .running ∧ KeptBut [.mem, .keys, .ir, .draws] State.reset Session.start.machine ∧
    ∃ d, hostAct (.load [0x12, 0x00]) Session.start = .next d ∧ d.phase ≠ .running :=
  ⟨by decide, fun p _ => by cases p <;> simp [PartKept, Session.start], _, rfl, by decide⟩

/-- The rows with a mask of the class alone: the greatest operands. -/
theorem witness_class_rows :
    0x1FFF#16 &&& 0xF000#16 = 0x1000#16 ∧ 0x2FFF#16 &&& 0xF000#16 = 0x2000#16 ∧
    0x3FFF#16 &&& 0xF000#16 = 0x3000#16 ∧ 0x4FFF#16 &&& 0xF000#16 = 0x4000#16 ∧
    0x5FFF#16 &&& 0xF000#16 = 0x5000#16 ∧ 0x6FFF#16 &&& 0xF000#16 = 0x6000#16 ∧
    0x7FFF#16 &&& 0xF000#16 = 0x7000#16 ∧ 0x9FFF#16 &&& 0xF000#16 = 0x9000#16 ∧
    0xAFFF#16 &&& 0xF000#16 = 0xA000#16 ∧ 0xBFFF#16 &&& 0xF000#16 = 0xB000#16 ∧
    0xCFFF#16 &&& 0xF000#16 = 0xC000#16 ∧ 0xDFFF#16 &&& 0xF000#16 = 0xD000#16 := by decide

/-- The rows keyed by the low nibble. -/
theorem witness_nibble_rows :
    0x0FF0#16 &&& 0xF00F#16 = 0x0000#16 ∧ 0x0FFE#16 &&& 0xF00F#16 = 0x000E#16 ∧
    0x8FF0#16 &&& 0xF00F#16 = 0x8000#16 ∧ 0x8FF1#16 &&& 0xF00F#16 = 0x8001#16 ∧
    0x8FF2#16 &&& 0xF00F#16 = 0x8002#16 ∧ 0x8FF3#16 &&& 0xF00F#16 = 0x8003#16 ∧
    0x8FF4#16 &&& 0xF00F#16 = 0x8004#16 ∧ 0x8FF5#16 &&& 0xF00F#16 = 0x8005#16 ∧
    0x8FF6#16 &&& 0xF00F#16 = 0x8006#16 ∧ 0x8FF7#16 &&& 0xF00F#16 = 0x8007#16 ∧
    0x8FFE#16 &&& 0xF00F#16 = 0x800E#16 ∧ 0xEF9E#16 &&& 0xF00F#16 = 0xE00E#16 ∧
    0xEFA1#16 &&& 0xF00F#16 = 0xE001#16 := by decide

/-- The rows keyed by the low byte. -/
theorem witness_byte_rows :
    0xFF07#16 &&& 0xF0FF#16 = 0xF007#16 ∧ 0xFF0A#16 &&& 0xF0FF#16 = 0xF00A#16 ∧
    0xFF15#16 &&& 0xF0FF#16 = 0xF015#16 ∧ 0xFF18#16 &&& 0xF0FF#16 = 0xF018#16 ∧
    0xFF1E#16 &&& 0xF0FF#16 = 0xF01E#16 ∧ 0xFF29#16 &&& 0xF0FF#16 = 0xF029#16 ∧
    0xFF33#16 &&& 0xF0FF#16 = 0xF033#16 ∧ 0xFF55#16 &&& 0xF0FF#16 = 0xF055#16 ∧
    0xFF65#16 &&& 0xF0FF#16 = 0xF065#16 := by decide

/-- Both clauses, at the depths where they meet. -/
theorem witness_CallPushesTheReturnAddress :
    ({ State.reset with sp := 14 } : State).sp.val < 15 ∧ ({ State.reset with sp := 15 } : State).sp.val = 15 := by
  decide

/-- Both clauses, at the depths where they meet. -/
theorem witness_ReturnPopsTheReturnAddress :
    0 < ({ State.reset with sp := 1 } : State).sp.val ∧ State.reset.sp.val = 0 := by decide

theorem witness_CallThenReturnComesBack :
    let s : State := { State.reset with sp := 14 }
    s.sp.val < 15 ∧ exec (.call 0x400) s = .next (s.pushReturn.setPc 0x400) ∧
    (s.setPc 0x400).sp = s.sp ∧ ∀ k, (s.setPc 0x400).slot k = s.slot k := ⟨by decide, rfl, rfl, fun _ => rfl⟩

theorem witness_KeySkipsTestTheKeyNamedByTheRegister :
    (15 : Fin 16).val = ((State.reset.setReg 4 0xFF).reg 4).toNat % 16 ∧
    (0 : Fin 16).val = ((State.reset.setReg 4 0x10).reg 4).toNat % 16 := by decide

/-- `x` = 14 beside the flag register. -/
theorem witness_flag_clauses : (14 : RegIdx) ≠ 15 := by decide

/-- A row of one 1 bit at the left edge: the pixel under it, lit or not, and the pixel beside it. -/
theorem witness_DrawFlipsThePixelsUnderTheSprite :
    let s := State.reset.writeBytes 0x300 [0x80] |>.setI 0x300
    let lit := s.setFb (flipPixel s.fb 0 0)
    SpriteCovers s 0 0 1 0 0 ∧ ¬ SpriteCovers s 0 0 1 1 0 ∧
    (∃ px py, SpriteCovers lit 0 0 1 px py ∧ lit.pixel px py = true) ∧
    ∀ px py, SpriteCovers s 0 0 1 px py → s.pixel px py = false := by
  have hit : ∀ fb : Framebuffer,
      SpriteCovers ((State.reset.writeBytes 0x300 [0x80] |>.setI 0x300).setFb fb) 0 0 1 0 0 :=
    fun _ => ⟨0, by decide, 0, by decide,
      (by decide : ((State.reset.writeBytes 0x300 [0x80]).read 0x300).getLsbD 7 = true), by decide, by decide⟩
  refine ⟨hit _, ?_, ⟨0, 0, hit _, by decide⟩, fun px py _ => getPixel_blankScreen px py⟩
  rintro ⟨r, hr, c, hc, hb, hx, -⟩
  obtain rfl : r = 0 := by omega
  obtain rfl : c = 1 := by
    simp at hx
    omega
  revert hb
  decide

/-- The same draw twice, first over an empty screen. -/
theorem witness_DrawingTwiceRestoresTheScreen :
    let s := State.reset.writeBytes 0x300 [0x80] |>.setI 0x300
    ∃ t, exec (.drw 0 1 1) s = .next t ∧ t.reg 0 = s.reg 0 ∧ t.reg 1 = s.reg 1 ∧ t.reg 15 = 0 :=
  ⟨_, rfl, by decide, by decide, by decide⟩

theorem witness_DelayTimerIsReadBeforeTheTick :
    (ready 0xF207).ready ∧ decodeWord (ready 0xF207).fetchWord = .ldVxDt 2 := by decide

theorem witness_TimerWritesAreTickedInTheSameStep :
    ((ready 0xF215).ready ∧ decodeWord (ready 0xF215).fetchWord = .ldDtVx 2) ∧
    ((ready 0xF218).ready ∧ decodeWord (ready 0xF218).fetchWord = .ldStVx 2) := by decide

/-- The clauses: the highest key alone, the lowest of two, none. -/
theorem witness_KeyWaitStoresTheLowestKeyOrWaits :
    ((State.reset.setKeys (pressed [15])).key 15 = true ∧
      ∀ j < (15 : Fin 16), (State.reset.setKeys (pressed [15])).key j = false) ∧
    ((State.reset.setKeys (pressed [7, 0])).key 0 = true ∧
      ∀ j < (0 : Fin 16), (State.reset.setKeys (pressed [7, 0])).key j = false) ∧
    ((ready 0xF50A).ready ∧ decodeWord (ready 0xF50A).fetchWord = .ldVxK 5 ∧ ∀ k, (ready 0xF50A).key k = false) := by
  decide

/-- The block's ends: the last register stored, the first register kept. -/
theorem witness_register_blocks :
    (2 : RegIdx) ≤ 2 ∧ (2 : RegIdx) < 3 ∧ (15 : RegIdx) ≤ 15 ∧
    (∀ k < 3, memCell 0x303 ≠ memCell (State.reset.setI 0x300 |>.dataAddr 0 |> (· + k))) := by decide

theorem witness_StoreThenLoadRestoresTheRegisters :
    ∃ t, exec (.ldMemVx 15) (State.reset.setI 0x300) = .next t ∧ (t.setPc 0).i = t.i ∧
      ∀ a, (t.setPc 0).read a = t.read a := ⟨_, rfl, rfl, fun _ => rfl⟩

/-- The block begins at `PC`, also through an index of another page. -/
theorem witness_StoredBytesAreFetchedNext :
    1 ≤ (1 : RegIdx).val ∧
    memCell ((State.reset.setI 0x1200).dataAddr 0) = memCell (State.reset.setI 0x1200).pc.toNat := by decide

/-- The cells on either side of the glyph table, and its last byte. -/
theorem witness_ResetLeavesTheStatedValues :
    79 < 80 ∧ 0x200 < 4096 ∧ Config.glyphBase.val + 80 ≤ 0x200 := ⟨by decide, by decide, by omega⟩

/-- Both clauses, at the lengths where they meet. -/
theorem witness_ImageIsLoadedOrRefusedWhole :
    (List.replicate 3584 (0xAB : Byte)).length ≤ 3584 ∧ 3584 < (List.replicate 3585 (0xAB : Byte)).length := by
  rw [List.length_replicate, List.length_replicate]
  decide

theorem witness_HostProtocolIsKept :
    ({ Session.start with phase := .loaded } : Session).phase ≠ .fresh ∧
    (Session.start.phase = .fresh ∧ ∃ t, Session.start.machine.loadImage [] = .next t) ∧
    ∃ t, step Session.start.machine = .next t := ⟨by decide, ⟨rfl, _, rfl⟩, _, rfl⟩

/-- The corners of the screen. -/
theorem witness_PortsShowTheState :
    (0 : Fin 32).val * 64 + (0 : Fin 64).val < 2048 ∧ (31 : Fin 32).val * 64 + (63 : Fin 64).val < 2048 := by decide

/-- vC1: a jump to itself at 0x200. -/
theorem witness_ParkedStateIsAFixedPoint : (ready 0x1200).parked :=
  ⟨by decide, ⟨0x200, by decide, by decide⟩, by decide, by decide⟩

theorem witness_SelfJumpOnlyRunsTheTimersDown :
    (ready 0x1200 fun s => s.setDt 3).ready ∧ (ready 0x1200 fun s => s.setDt 3).atSelfJump :=
  ⟨by decide, 0x200, by decide, by decide⟩

end Sys2Proof.Machine
end

section
/-!
SUPPORT. Facts about handlers and Steps that the statements on the state (spec/10_state.md) share: the handlers that
branch, said once per branch; what each handler does to registers, stack and `PC`; the same carried to a whole Step.
-/

namespace Sys2Proof.Machine

/-! ### Frames -/

/-- Every part of a state reads the same as itself. -/
theorem PartKept.refl (s : State) (p : Part) : PartKept s s p := by
  cases p <;> simp [PartKept]

/-! Writing one part of the state keeps every other part. -/

theorem State.setSt_kept (s : State) (b : Byte) : KeptBut [.st] s (s.setSt b) := by
  intro p hp
  have hrefl := PartKept.refl s p
  cases p
  case st => simp at hp
  all_goals exact hrefl

theorem State.setKeys_kept (s : State) (keys : Vector Bool 16) : KeptBut [.keys] s (s.setKeys keys) := by
  intro p hp
  have hrefl := PartKept.refl s p
  cases p
  case keys => simp at hp
  all_goals exact hrefl

theorem State.withIr_kept (s : State) (w : Word) : KeptBut [.ir] s { s with ir := w } := by
  intro p hp
  have hrefl := PartKept.refl s p
  cases p
  case ir => simp at hp
  all_goals exact hrefl

theorem State.withStack_kept (s : State) (stack : Vector Word 16) : KeptBut [.stack] s { s with stack := stack } := by
  intro p hp
  have hrefl := PartKept.refl s p
  cases p
  case stack => simp at hp
  all_goals exact hrefl

theorem State.withDraws_kept (s : State) (n : Nat) : KeptBut [.draws] s { s with draws := n } := by
  intro p hp
  have hrefl := PartKept.refl s p
  cases p
  case draws => simp at hp
  all_goals exact hrefl

/-! ### The handlers that branch -/

/-- CALL on a full stack (R222). -/
theorem execCall_full {s : State} (nnn : Addr12) (h : s.sp.val = Config.stackMaxDepth) :
    execCall nnn s = .next (s.takeFault .stackOverflow) := if_pos h

/-- CALL below the greatest depth (R141). -/
theorem execCall_room {s : State} (nnn : Addr12) (h : s.sp.val ≠ Config.stackMaxDepth) :
    execCall nnn s = .next (s.pushReturn.setPc (immAddr nnn)) := if_neg h

/-- RET on an empty stack (R223). -/
theorem execRet_empty {s : State} (h : s.sp.val = 0) : execRet s = .next (s.takeFault .stackUnderflow) := if_pos h

/-- RET with an address held (R142). -/
theorem execRet_held {s : State} (h : s.sp.val ≠ 0) : execRet s = .next s.popReturn := if_neg h

/-- LD Vx, K with a key pressed (R203). -/
theorem execLdVxK_pressed {s : State} (x : RegIdx) {k : Fin 16} (h : s.lowestKey = some k) :
    execLdVxK x s = .next (s.setReg x (BitVec.ofNat 8 k)) := by
  simp [execLdVxK, h]

/-- LD Vx, K with no key pressed (R203). -/
theorem execLdVxK_waiting {s : State} (x : RegIdx) (h : s.lowestKey = none) :
    execLdVxK x s = .next (s.setPc (s.pc - 2)) := by
  simp [execLdVxK, h]

/-- All that CALL can do. -/
theorem execCall_cases {nnn : Addr12} {s t : State} (h : execCall nnn s = .next t) :
    (s.sp.val = Config.stackMaxDepth ∧ t = s.takeFault .stackOverflow) ∨
    (s.sp.val ≠ Config.stackMaxDepth ∧ t = s.pushReturn.setPc (immAddr nnn)) := by
  by_cases hd : s.sp.val = Config.stackMaxDepth
  · rw [execCall_full nnn hd] at h
    exact .inl ⟨hd, (Host.Outcome.next.inj h).symm⟩
  · rw [execCall_room nnn hd] at h
    exact .inr ⟨hd, (Host.Outcome.next.inj h).symm⟩

/-- All that RET can do. -/
theorem execRet_cases {s t : State} (h : execRet s = .next t) :
    (s.sp.val = 0 ∧ t = s.takeFault .stackUnderflow) ∨ (s.sp.val ≠ 0 ∧ t = s.popReturn) := by
  by_cases hd : s.sp.val = 0
  · rw [execRet_empty hd] at h
    exact .inl ⟨hd, (Host.Outcome.next.inj h).symm⟩
  · rw [execRet_held hd] at h
    exact .inr ⟨hd, (Host.Outcome.next.inj h).symm⟩

/-- All that LD Vx, K can do. -/
theorem execLdVxK_cases {x : RegIdx} {s t : State} (h : execLdVxK x s = .next t) :
    (∃ k, s.lowestKey = some k ∧ t = s.setReg x (BitVec.ofNat 8 k)) ∨
    (s.lowestKey = none ∧ t = s.setPc (s.pc - 2)) := by
  cases hk : s.lowestKey with
  | some k =>
    rw [execLdVxK_pressed x hk] at h
    exact .inl ⟨k, rfl, (Host.Outcome.next.inj h).symm⟩
  | none =>
    rw [execLdVxK_waiting x hk] at h
    exact .inr ⟨rfl, (Host.Outcome.next.inj h).symm⟩

/-- The loaded block is kept as a term: evaluated, it is a vector of sixteen case distinctions. -/
theorem execLdVxMem_eq {x : RegIdx} {s t : State} (h : execLdVxMem x s = .next t) :
    t = s.setRegs (s.loadedBlock x) := by
  rw [execLdVxMem] at h
  exact (Host.Outcome.next.inj h).symm

/-! ### Registers -/

theorem State.reg_setFlagged_other (s : State) {x r : RegIdx} (f b : Byte) (h : ¬(r = x ∨ r = flagIdx)) :
    (s.setFlagged x f b).reg r = s.reg r := by
  rw [State.reg_setFlagged, if_neg fun e => h (.inl e), if_neg fun e => h (.inr e)]

theorem State.reg_skipIf (s : State) (taken : Bool) (r : RegIdx) : (s.skipIf taken).reg r = s.reg r := by
  simp [State.reg]

/-- A handler changes no register that its instruction does not write. -/
theorem exec_regs {i : Instr} {s t : State} {r : RegIdx} (h : exec i s = .next t) (hr : ¬ writesReg i r) :
    t.reg r = s.reg r := by
  cases i
  case ldImm | addImm | ldReg | orReg | andReg | xorReg | rnd | ldVxDt =>
    cases h
    exact State.reg_setReg_other _ _ hr
  case addReg | subReg | subnReg | shr | shl =>
    cases h
    exact State.reg_setFlagged_other _ _ _ hr
  case drw =>
    cases h
    exact State.reg_setReg_other s _ hr
  case ldVxMem x =>
    obtain rfl := execLdVxMem_eq h
    exact (State.reg_loadedBlock s x r).trans (if_neg hr)
  case seImm | sneImm | seReg | sneReg | skp | sknp =>
    cases h
    exact State.reg_skipIf _ _ r
  case call =>
    obtain ⟨-, rfl⟩ | ⟨-, rfl⟩ := execCall_cases h <;> rfl
  case ret =>
    obtain ⟨-, rfl⟩ | ⟨-, rfl⟩ := execRet_cases h <;> rfl
  case ldVxK =>
    obtain ⟨k, -, rfl⟩ | ⟨-, rfl⟩ := execLdVxK_cases h
    · exact State.reg_setReg_other _ _ hr
    · rfl
  all_goals
    cases h
    rfl

/-! ### Return stack -/

/-- What a CALL does to the stack: the pointer goes up by one unless the CALL faults, and only the slot at the old
pointer is written, which is never slot 15. -/
theorem execCall_stack {nnn : Addr12} {s t : State} (h : execCall nnn s = .next t) :
    (t.sp = s.sp ∨ t.sp.val = s.sp.val + 1) ∧ (∀ k, k ≠ s.sp → t.slot k = s.slot k) ∧ t.slot 15 = s.slot 15 := by
  obtain ⟨-, rfl⟩ | ⟨hd, rfl⟩ := execCall_cases h
  · exact ⟨.inl rfl, fun _ _ => rfl, rfl⟩
  · have hslot : ∀ k, k ≠ s.sp → (s.pushReturn.setPc (immAddr nnn)).slot k = s.slot k := fun k hk =>
      (State.slot_pushReturn s k).trans (if_neg hk)
    exact ⟨.inr (State.pushReturn_sp_val hd), hslot, hslot 15 fun e => hd (congrArg Fin.val e.symm)⟩

/-- A RET moves the stack pointer down by one unless it faults. -/
theorem execRet_sp {s t : State} (h : execRet s = .next t) : t.sp = s.sp ∨ t.sp.val + 1 = s.sp.val := by
  obtain ⟨-, rfl⟩ | ⟨hd, rfl⟩ := execRet_cases h
  · exact .inl rfl
  · have hsp := State.popReturn_sp_val hd
    omega

/-! ### Program counter -/

/-- A handler that is no jump, no skip and no key wait leaves `PC` where the fetch put it. -/
theorem exec_pc {i : Instr} {s t : State} (h : exec i s = .next t) (hj : jumps i = false) (hs : skips i = false)
    (hk : ∀ x, i ≠ .ldVxK x) : t.pc = s.pc := by
  cases i
  case jp | call | ret | jpV0 => cases hj
  case seImm | sneImm | seReg | sneReg | skp | sknp => cases hs
  case ldVxK x => exact absurd rfl (hk x)
  case ldVxMem x =>
    obtain rfl := execLdVxMem_eq h
    exact State.setRegs_pc s _
  all_goals
    cases h
    rfl

theorem State.skipIf_pc_cases (s : State) : ∀ taken, (s.skipIf taken).pc = s.pc ∨ (s.skipIf taken).pc = s.pc + 2
  | false => .inl rfl
  | true => .inr rfl

/-- A skip leaves `PC` or adds 2 to it. -/
theorem exec_skip_pc {i : Instr} {s t : State} (h : exec i s = .next t) (hs : skips i = true) :
    t.pc = s.pc ∨ t.pc = s.pc + 2 := by
  cases i
  case seImm | sneImm | seReg | sneReg | skp | sknp =>
    cases h
    exact State.skipIf_pc_cases s _
  all_goals cases hs

/-- The key wait leaves `PC` or takes 2 from it. -/
theorem execLdVxK_pc {x : RegIdx} {s t : State} (h : execLdVxK x s = .next t) : t.pc = s.pc ∨ t.pc = s.pc - 2 := by
  obtain ⟨k, -, rfl⟩ | ⟨-, rfl⟩ := execLdVxK_cases h
  · exact .inl rfl
  · exact .inr rfl

/-! ### From handlers to Steps -/

/-- All that a Step between two ready states can do: its handler ran without a fault, and the timers ticked. -/
theorem step_ready_cases {s t : State} (hs : s.ready) (h : step s = .next t) (ht : t.ready) :
    ∃ u, exec (decodeWord s.fetchWord) s.fetched = .next u ∧ t = u.tick := by
  obtain ⟨hf, -⟩ | ⟨-, u, hu, ⟨-, rfl⟩ | ⟨c, -, rfl⟩⟩ := step_cases h
  · exact absurd hs hf
  · exact ⟨u, hu, rfl⟩
  · cases ht

/-- A Step changes nothing but the latch, or it ran its handler without a fault and ticked the timers. -/
theorem step_kept_or_ran {s t : State} (h : step s = .next t) :
    (∃ f, t = { s with fault := f }) ∨
    ∃ u, exec (decodeWord s.fetchWord) s.fetched = .next u ∧ t = u.tick := by
  obtain ⟨-, rfl⟩ | ⟨-, u, hu, ⟨-, rfl⟩ | ⟨c, -, rfl⟩⟩ := step_cases h
  · exact .inl ⟨t.fault, rfl⟩
  · exact .inr ⟨u, hu, rfl⟩
  · exact .inl ⟨some c, rfl⟩

/-- Keys, memory, framebuffer, `I`, draws and the return stack are written in a Step by their own instructions
alone. -/
theorem step_access {s t : State} (h : step s = .next t) :
    t.keys = s.keys ∧
    ((∀ x, decodeWord s.fetchWord ≠ .ldB x) → (∀ x, decodeWord s.fetchWord ≠ .ldMemVx x) → t.mem = s.mem) ∧
    ((∀ p, decodeWord s.fetchWord ≠ .cls p) → (∀ x y n, decodeWord s.fetchWord ≠ .drw x y n) → t.fb = s.fb) ∧
    ((∀ a, decodeWord s.fetchWord ≠ .ldI a) → (∀ x, decodeWord s.fetchWord ≠ .addI x) →
      (∀ x, decodeWord s.fetchWord ≠ .ldF x) → t.i = s.i) ∧
    ((∀ x k, decodeWord s.fetchWord ≠ .rnd x k) → t.draws = s.draws) ∧
    ((∀ a, decodeWord s.fetchWord ≠ .call a) → t.stack = s.stack) ∧
    ((∀ a, decodeWord s.fetchWord ≠ .call a) → (∀ p, decodeWord s.fetchWord ≠ .ret p) → t.sp = s.sp) := by
  obtain ⟨f, rfl⟩ | ⟨u, hu, rfl⟩ := step_kept_or_ran h
  · simp
  · obtain ⟨hkeys, hmem, hfb, hi, hdraws, -, hstack, hsp⟩ := exec_access hu
    exact ⟨hkeys, hmem, hfb, hi, hdraws, hstack, hsp⟩

/-- What a Step does to the stack: the pointer goes up by one in a CALL that does not fault, only the slot at the old
pointer is ever written, and never slot 15. -/
theorem step_stack {s t : State} (h : step s = .next t) :
    (∀ a, decodeWord s.fetchWord = .call a → t.sp = s.sp ∨ t.sp.val = s.sp.val + 1) ∧
    (∀ k, k ≠ s.sp → t.slot k = s.slot k) ∧ t.slot 15 = s.slot 15 := by
  obtain ⟨f, rfl⟩ | ⟨u, hu, rfl⟩ := step_kept_or_ran h
  · exact ⟨fun _ _ => .inl rfl, fun _ _ => rfl, rfl⟩
  by_cases hcall : ∃ a, decodeWord s.fetchWord = .call a
  · obtain ⟨a, ha⟩ := hcall
    rw [ha] at hu
    obtain ⟨hsp, hslots, hlast⟩ := execCall_stack hu
    exact ⟨fun _ _ => hsp, hslots, hlast⟩
  · obtain ⟨-, -, -, -, -, -, hstack, -⟩ := exec_access hu
    have hslot : ∀ k, u.slot k = s.slot k := fun k => by
      rw [State.slot, hstack (not_exists.1 hcall), State.slot, State.fetched_stack]
    exact ⟨fun a ha => absurd ⟨a, ha⟩ hcall, fun k _ => hslot k, hslot 15⟩

/-- The stack pointer goes down by one in a RET that does not fault. -/
theorem step_ret_sp {s t : State} (h : step s = .next t) (p : Byte) (hp : decodeWord s.fetchWord = .ret p) :
    t.sp = s.sp ∨ t.sp.val + 1 = s.sp.val := by
  obtain ⟨f, rfl⟩ | ⟨u, hu, rfl⟩ := step_kept_or_ran h
  · exact .inl rfl
  · rw [hp] at hu
    exact execRet_sp (s := s.fetched) (t := u) hu

/-- A Step that runs RND from a ready state consumes exactly one draw. -/
theorem step_rnd_draws {s t : State} {x : RegIdx} {kk : Byte} (hs : s.ready) (h : step s = .next t)
    (hi : decodeWord s.fetchWord = .rnd x kk) : t.draws = s.draws + 1 := by
  rw [step_ready hs, hi] at h
  obtain ⟨u, hu, hend⟩ := finishStep_next h
  obtain ⟨-, -, -, -, -, hrnd, -, -⟩ := exec_access hu
  obtain ⟨hdraws, hfault⟩ := hrnd x kk rfl
  obtain ⟨-, rfl⟩ | ⟨c, hc, -⟩ := hend
  · exact hdraws
  · exact absurd (hc.symm.trans (hfault.trans hs)) (by simp)

/-- A relation between states that no Step can tell apart: related states fetch the same word, hold the same latch,
and stay related through every part of a Step. -/
structure StepRelation (R : State → State → Prop) : Prop where
  fault : ∀ {s s'}, R s s' → s'.fault = s.fault
  fetchWord : ∀ {s s'}, R s s' → s'.fetchWord = s.fetchWord
  fetched : ∀ {s s'}, R s s' → R s.fetched s'.fetched
  exec : ∀ {i s s' t}, R s s' → exec i s = .next t → ∃ t', Machine.exec i s' = .next t' ∧ R t t'
  tick : ∀ {s s'}, R s s' → R s.tick s'.tick
  latch : ∀ {s s'} c, R s s' → R { s with fault := some c } { s' with fault := some c }

/-- Steps from related states end in related states. -/
theorem StepRelation.step {R : State → State → Prop} (hR : StepRelation R) {s s' t : State} (h : R s s')
    (hs : step s = .next t) : ∃ t', Machine.step s' = .next t' ∧ R t t' := by
  have hfault := hR.fault h
  obtain ⟨hf, rfl⟩ | ⟨hf, u, hu, hend⟩ := step_cases hs
  · obtain ⟨c, hc⟩ := Option.ne_none_iff_exists'.1 hf
    exact ⟨s', step_faulted (hfault.trans hc), h⟩
  · obtain ⟨u', hu', hr⟩ := hR.exec (hR.fetched h) hu
    rw [step_ready (hfault.trans hf), hR.fetchWord h, hu']
    have hufault := hR.fault hr
    obtain ⟨hn, rfl⟩ | ⟨c, hc, rfl⟩ := hend
    · exact ⟨_, finishStep_ready (hufault.trans hn), hR.tick hr⟩
    · exact ⟨_, finishStep_faulted (hufault.trans hc), hR.latch c h⟩

/-! ### States that differ only in `ST` -/

theorem State.skipIf_setSt (s : State) (b : Byte) (taken : Bool) :
    (s.setSt b).skipIf taken = (s.skipIf taken).setSt b := by cases taken <;> rfl

/-- No handler reads `ST`. -/
theorem exec_setSt {i : Instr} {s t : State} (b : Byte) (h : exec i s = .next t) :
    ∃ c, exec i (s.setSt b) = .next (t.setSt c) := by
  cases i
  case ldStVx x =>
    cases h
    exact ⟨s.reg x, rfl⟩
  case call nnn =>
    obtain ⟨hd, rfl⟩ | ⟨hd, rfl⟩ := execCall_cases h
    · exact ⟨b, execCall_full nnn hd⟩
    · exact ⟨b, execCall_room nnn hd⟩
  case ret =>
    obtain ⟨hd, rfl⟩ | ⟨hd, rfl⟩ := execRet_cases h
    · exact ⟨b, execRet_empty hd⟩
    · exact ⟨b, execRet_held hd⟩
  case ldVxK x =>
    obtain ⟨k, hk, rfl⟩ | ⟨hk, rfl⟩ := execLdVxK_cases h
    · exact ⟨b, execLdVxK_pressed x hk⟩
    · exact ⟨b, execLdVxK_waiting x hk⟩
  case seImm | sneImm | seReg | sneReg | skp | sknp =>
    cases h
    exact ⟨b, congrArg Host.Outcome.next (State.skipIf_setSt s b _)⟩
  case ldVxMem x =>
    obtain rfl := execLdVxMem_eq h
    exact ⟨b, rfl⟩
  all_goals
    cases h
    exact ⟨b, rfl⟩

/-- States that differ at most in `ST` are told apart by no Step. -/
theorem stepRelation_setSt : StepRelation fun s s' => ∃ b, s' = s.setSt b where
  fault := by rintro s _ ⟨b, rfl⟩; rfl
  fetchWord := by rintro s _ ⟨b, rfl⟩; rfl
  fetched := by rintro s _ ⟨b, rfl⟩; exact ⟨b, rfl⟩
  exec := by
    rintro i s _ t ⟨b, rfl⟩ h
    obtain ⟨c, hc⟩ := exec_setSt b h
    exact ⟨_, hc, c, rfl⟩
  tick := by rintro s _ ⟨b, rfl⟩; exact ⟨tickTimer b, rfl⟩
  latch := by rintro s _ c ⟨b, rfl⟩; exact ⟨b, rfl⟩

/-! ### States that differ only in dead stack slots -/

/-- The second state is the first with a stack that agrees with its own on every slot below `SP`. -/
def SameLiveStack (s s' : State) : Prop :=
  ∃ stack : Vector Word 16, s' = { s with stack := stack } ∧ ∀ k : Fin 16, k < s.sp → stack.get k = s.slot k

theorem State.skipIf_withStack (s : State) (stack : Vector Word 16) (taken : Bool) :
    State.skipIf { s with stack := stack } taken = { s.skipIf taken with stack := stack } := by cases taken <;> rfl

/-- A push onto stacks that agree below `SP` leaves stacks that agree below the new `SP`. -/
theorem SameLiveStack.pushReturn {s s' : State} (hd : s.sp.val ≠ Config.stackMaxDepth) (h : SameLiveStack s s') :
    SameLiveStack s.pushReturn s'.pushReturn := by
  obtain ⟨stack, rfl, hlive⟩ := h
  refine ⟨_, rfl, fun k hk => ?_⟩
  have hslot := State.slot_pushReturn { s with stack := stack } k
  rw [State.slot_pushReturn]
  refine hslot.trans ?_
  by_cases hsp : k = s.sp
  · rw [if_pos hsp, if_pos hsp]
  · rw [if_neg hsp, if_neg hsp]
    have hval := State.pushReturn_sp_val hd
    exact hlive k (by omega)

/-- A pop from stacks that agree below `SP` reads the same address, and they agree below the new `SP`. -/
theorem SameLiveStack.popReturn {s s' : State} (hd : s.sp.val ≠ 0) (h : SameLiveStack s s') :
    SameLiveStack s.popReturn s'.popReturn := by
  obtain ⟨stack, rfl, hlive⟩ := h
  have hval : (s.sp - 1).val = s.sp.val - 1 := State.popReturn_sp_val hd
  have htop : stack.get (s.sp - 1) = s.slot (s.sp - 1) := hlive _ (by omega)
  refine ⟨stack, ?_, fun k hk => hlive k ?_⟩
  · simp only [State.popReturn, State.slot] at htop ⊢
    rw [htop]
  · have hk : k < s.sp - 1 := hk
    omega

/-- A handler that is neither CALL nor RET does not look at the stack. -/
theorem exec_withStack {i : Instr} {s t : State} (stack : Vector Word 16) (h : exec i s = .next t)
    (hcall : ∀ a, i ≠ .call a) (hret : ∀ p, i ≠ .ret p) :
    exec i { s with stack := stack } = .next { t with stack := stack } := by
  cases i
  case call nnn => exact absurd rfl (hcall nnn)
  case ret pad => exact absurd rfl (hret pad)
  case ldVxK x =>
    obtain ⟨k, hk, rfl⟩ | ⟨hk, rfl⟩ := execLdVxK_cases h
    · exact execLdVxK_pressed x hk
    · exact execLdVxK_waiting x hk
  case seImm | sneImm | seReg | sneReg | skp | sknp =>
    cases h
    exact congrArg Host.Outcome.next (State.skipIf_withStack s stack _)
  case ldVxMem x =>
    obtain rfl := execLdVxMem_eq h
    rfl
  all_goals
    cases h
    rfl

/-- A fault in both states leaves stacks that agree below `SP`. -/
theorem SameLiveStack.takeFault {s s' : State} (c : Fault) (h : SameLiveStack s s') :
    SameLiveStack (s.takeFault c) (s'.takeFault c) := by
  obtain ⟨stack, rfl, hlive⟩ := h
  exact ⟨stack, rfl, hlive⟩

/-- A jump in both states leaves stacks that agree below `SP`. -/
theorem SameLiveStack.setPc {s s' : State} (a : Word) (h : SameLiveStack s s') :
    SameLiveStack (s.setPc a) (s'.setPc a) := by
  obtain ⟨stack, rfl, hlive⟩ := h
  exact ⟨stack, rfl, hlive⟩

theorem SameLiveStack.sp {s s' : State} (h : SameLiveStack s s') : s'.sp = s.sp := by
  obtain ⟨stack, rfl, -⟩ := h
  rfl

theorem SameLiveStack.execCall {nnn : Addr12} {s s' t : State} (h : SameLiveStack s s')
    (he : execCall nnn s = .next t) : ∃ t', Machine.execCall nnn s' = .next t' ∧ SameLiveStack t t' := by
  obtain ⟨hd, rfl⟩ | ⟨hd, rfl⟩ := execCall_cases he
  · exact ⟨_, execCall_full nnn (h.sp ▸ hd), h.takeFault _⟩
  · exact ⟨_, execCall_room nnn (h.sp ▸ hd), (h.pushReturn hd).setPc _⟩

theorem SameLiveStack.execRet {s s' t : State} (h : SameLiveStack s s') (he : execRet s = .next t) :
    ∃ t', Machine.execRet s' = .next t' ∧ SameLiveStack t t' := by
  obtain ⟨hd, rfl⟩ | ⟨hd, rfl⟩ := execRet_cases he
  · exact ⟨_, execRet_empty (h.sp ▸ hd), h.takeFault _⟩
  · exact ⟨_, execRet_held (h.sp ▸ hd), h.popReturn hd⟩

/-- No handler looks at a slot at or above `SP`. -/
theorem SameLiveStack.exec {i : Instr} {s s' t : State} (h : SameLiveStack s s') (he : exec i s = .next t) :
    ∃ t', Machine.exec i s' = .next t' ∧ SameLiveStack t t' := by
  by_cases hcall : ∃ a, i = .call a
  · obtain ⟨a, rfl⟩ := hcall
    exact h.execCall he
  by_cases hret : ∃ p, i = .ret p
  · obtain ⟨p, rfl⟩ := hret
    exact h.execRet he
  · have hcall := not_exists.1 hcall
    have hret := not_exists.1 hret
    obtain ⟨stack, rfl, hlive⟩ := h
    obtain ⟨-, -, -, -, -, -, hstack, hsp⟩ := exec_access he
    refine ⟨_, exec_withStack stack he hcall hret, stack, rfl, fun k hk => ?_⟩
    rw [State.slot, hstack hcall]
    exact hlive k (hsp hcall hret ▸ hk)

/-- States whose live slots agree are told apart by no Step. -/
theorem stepRelation_sameLiveStack : StepRelation SameLiveStack where
  fault := by rintro s _ ⟨stack, rfl, -⟩; rfl
  fetchWord := by rintro s _ ⟨stack, rfl, -⟩; rfl
  fetched := by rintro s _ ⟨stack, rfl, hlive⟩; exact ⟨stack, rfl, hlive⟩
  exec := SameLiveStack.exec
  tick := by rintro s _ ⟨stack, rfl, hlive⟩; exact ⟨stack, rfl, hlive⟩
  latch := by rintro s _ c ⟨stack, rfl, hlive⟩; exact ⟨stack, rfl, hlive⟩

/-! ### Reset -/

theorem State.read_reset (a : Nat) : State.reset.read a = initialByte (memCell a) := rfl

/-- At reset the cells of the glyph table hold its bytes. -/
theorem initialByte_glyph {k : Nat} (h : k < 80) :
    initialByte (Config.glyphBase.val + k) = Config.glyphTable[k] := by
  have hbase := Config.glyphBase.isLt
  have hlow : Config.glyphBase.val + k < Config.progBase := by simp only [Config.progBase]; omega
  have hin : Config.glyphBase.val ≤ Config.glyphBase.val + k ∧
      Config.glyphBase.val + k < Config.glyphBase.val + Config.glyphBytes := by simp only [Config.glyphBytes]; omega
  simp [initialByte, glyphCell, hlow, hin]

/-- At reset the cells outside the glyph table hold zero. -/
theorem initialByte_outside {a : Nat} (h : a < Config.glyphBase.val ∨ Config.glyphBase.val + 80 ≤ a) :
    initialByte a = 0 := by
  have hout : ¬(Config.glyphBase.val ≤ a ∧ a < Config.glyphBase.val + Config.glyphBytes) := by
    simp only [Config.glyphBytes]; omega
  simp [initialByte, glyphCell, hout]

/-! ### Ports -/

/-- The `fb` port, element by element (decision D19). -/
theorem State.getElem_fbPort (s : State) (x : Fin 64) (y : Fin 32) (h : y.val * 64 + x.val < 2048) :
    s.fbPort[y.val * 64 + x.val] = s.pixel x y := by
  have hx : (y.val * 64 + x.val) % 64 = x.val := by omega
  have hy : (y.val * 64 + x.val) / 64 = y.val := by omega
  simp [State.fbPort, hx, hy]

/-- The three codes of the fault port tell the three values of the latch apart (decision D24). -/
theorem faultCode_iff (f : Option Fault) :
    (faultCode f = 0 ↔ f = none) ∧ (faultCode f = 1 ↔ f = some .stackOverflow) ∧
    (faultCode f = 2 ↔ f = some .stackUnderflow) := by
  rcases f with _ | _ | _ <;> decide

/-- A load out of turn has no move (R36, R237). -/
theorem hostAct_load_outOfTurn {c : Session} (bytes : List Byte) (h : c.phase ≠ .fresh) :
    hostAct (.load bytes) c = .refused .hostOutOfTurn := by
  cases hp : c.phase with
  | fresh => exact absurd hp h
  | loaded | running => simp [hostAct, hp]

/-- The load of a fresh session is the load port's (R252). -/
theorem hostAct_load_fresh {c : Session} (bytes : List Byte) (h : c.phase = .fresh) :
    hostAct (.load bytes) c = inPhase .loaded (c.machine.loadImage bytes) := by
  simp [hostAct, h]

end Sys2Proof.Machine
end

section
/-!
The statements of the family `10_state.md`, settled.
-/

namespace Sys2Proof.Machine

/-- Settles O15, from what each instruction may write (`step_access`). -/
theorem onlyStoresWriteMemoryAndOnlyDrawsWriteScreen : Obligations.OnlyStoresWriteMemoryAndOnlyDrawsWriteScreen := by
  intro s t h
  obtain ⟨hkeys, hmem, hfb, -⟩ := step_access h
  refine ⟨fun k => ?_, fun hB hMem a => ?_, fun hCls hDrw x y => ?_⟩
  · rw [State.key, hkeys, State.key]
  · rw [State.read, hmem hB hMem, State.read]
  · rw [State.pixel, hfb hCls hDrw, State.pixel]

/-- Settles O16, from what each instruction may write; a latched fault stops the draw of an RND. -/
theorem onlyIndexLoadsWriteIndexAndOnlyRandomDraws : Obligations.OnlyIndexLoadsWriteIndexAndOnlyRandomDraws := by
  intro s t h
  obtain ⟨-, -, -, hi, hdraws, -⟩ := step_access h
  refine ⟨hi, hdraws, fun hs x kk => step_rnd_draws hs h, fun hs => ?_⟩
  obtain ⟨c, hc⟩ := Option.ne_none_iff_exists'.1 hs
  rw [step_faulted hc] at h
  cases h
  rfl

/-- Settles O17: every handler keeps the registers its instruction does not write. -/
theorem registersAreWrittenOnlyByTheirInstructions : Obligations.RegistersAreWrittenOnlyByTheirInstructions := by
  intro s t r h hr
  obtain ⟨f, rfl⟩ | ⟨u, hu, rfl⟩ := step_kept_or_ran h
  · rfl
  · exact exec_regs (s := s.fetched) (t := u) hu hr

/-- Settles O18, from `step_access` for all other instructions and from what CALL and RET do to the stack. -/
theorem onlyCallAndReturnTouchTheStack : Obligations.OnlyCallAndReturnTouchTheStack := by
  intro s t h
  obtain ⟨-, -, -, -, -, hstack, hsp⟩ := step_access h
  obtain ⟨hcallSp, hslot, hlast⟩ := step_stack h
  have hkept : (∀ a, decodeWord s.fetchWord ≠ .call a) → ∀ k, t.slot k = s.slot k := fun hcall k => by
    rw [State.slot, hstack hcall, State.slot]
  exact ⟨hkept, hsp, hcallSp, step_ret_sp h, hslot, hlast⟩

/-- Settles O19, handler by handler: the fetch has moved `PC` by 2 before the handler runs. -/
theorem programCounterMovesByTwoOrAsItsInstructionSays :
    Obligations.ProgramCounterMovesByTwoOrAsItsInstructionSays := by
  intro s t hs h ht
  obtain ⟨u, hu, rfl⟩ := step_ready_cases hs h ht
  refine ⟨exec_pc hu, fun hskip => ?_, fun x hx => ?_⟩
  · have hfour : s.pc + 2 + 2 = s.pc + 4 := by rw [BitVec.add_assoc]; rfl
    exact hfour ▸ exec_skip_pc hu hskip
  · rw [hx] at hu
    have hback : s.pc + 2 - 2 = s.pc := BitVec.add_sub_cancel ..
    exact (execLdVxK_pc hu).imp_right fun hpc => hpc.trans hback

/-- Settles O20: no handler reads `ST`, so the two Steps end in states that differ at most there. -/
theorem soundTimerInfluencesNothingElse : Obligations.SoundTimerInfluencesNothingElse := by
  intro s t b h
  obtain ⟨u, hu, c, rfl⟩ := stepRelation_setSt.step ⟨b, rfl⟩ h
  exact ⟨_, hu, t.setSt_kept c⟩

/-- Settles O21: the fetch overwrites `IR` before the handler runs, and a Step that runs no handler to its end keeps
it. -/
theorem instructionRegisterInfluencesNothingElse : Obligations.InstructionRegisterInfluencesNothingElse := by
  intro s t w h
  obtain ⟨hf, rfl⟩ | ⟨hf, u, hu, hend⟩ := step_cases h
  · obtain ⟨c, hc⟩ := Option.ne_none_iff_exists'.1 hf
    exact ⟨_, step_faulted hc, t.withIr_kept w⟩
  · have hstep : step { s with ir := w } = finishStep { s with ir := w } (.next u) := hu ▸ step_ready hf
    obtain ⟨hn, rfl⟩ | ⟨c, hc, rfl⟩ := hend
    · exact ⟨_, hstep.trans (finishStep_ready hn), fun p _ => PartKept.refl _ p⟩
    · exact ⟨_, hstep.trans (finishStep_faulted hc), State.withIr_kept _ w⟩

/-- Settles O22: the live slots of the two states agree, and no Step tells such states apart. -/
theorem deadStackSlotsAreUnobservable : Obligations.DeadStackSlotsAreUnobservable := by
  intro s t stack hlive h
  obtain ⟨u, hu, stack', rfl, hlive'⟩ := stepRelation_sameLiveStack.step ⟨stack, rfl, hlive⟩ h
  exact ⟨_, hu, t.withStack_kept stack', hlive'⟩

/-- Settles O56, one clause per action of the host. -/
theorem hostProtocolIsKept : Obligations.HostProtocolIsKept := by
  refine ⟨fun c bytes => hostAct_load_outOfTurn bytes, fun c bytes t hc ht => ?_, fun c flags => ?_, fun c t ht => ?_,
    fun c => ?_⟩
  · rw [hostAct_load_fresh bytes hc, ht, inPhase]
  · exact ⟨_, rfl, rfl, fun k => rfl, c.machine.setKeys_kept flags⟩
  · rw [hostAct, ht, inPhase]
  · have hkept := State.reset.withDraws_kept c.machine.draws
    exact ⟨_, rfl, rfl, fun p hp => hkept p fun hmem => hp (List.mem_cons_of_mem _ hmem)⟩

/-- Settles O57, port by port. -/
theorem portsShowTheState : Obligations.PortsShowTheState :=
  ⟨State.getElem_fbPort, fun _ => ⟨rfl, rfl⟩, fun s => faultCode_iff s.fault⟩

/-- Settles O24: the reset memory lists no cell. -/
theorem resetMemoryIsCanonical : Obligations.ResetMemoryIsCanonical :=
  ⟨List.Pairwise.nil, fun _ hc => absurd hc List.not_mem_nil⟩

/-- Settles O54: the fields by their reset values, the memory by its unlisted cells. -/
theorem resetLeavesTheStatedValues : Obligations.ResetLeavesTheStatedValues := by
  refine ⟨?_, rfl, rfl, ?_, rfl, rfl, rfl, ?_, ?_, rfl, ?_, ?_⟩
  · intro r
    simp [State.reg, State.reset, Vector.get_eq_getElem]
  · intro k
    simp [State.slot, State.reset, Vector.get_eq_getElem]
  · intro k
    simp [State.key, State.reset, Vector.get_eq_getElem]
  · exact getPixel_blankScreen
  · intro k h
    have hbase := Config.glyphBase.isLt
    have hcell : memCell (Config.glyphBase.val + k) = Config.glyphBase.val + k := Nat.mod_eq_of_lt (by
      simp only [Config.memSize]; omega)
    rw [State.read_reset, hcell, initialByte_glyph h]
  · intro a ha hout
    have hcell : memCell a = a := Nat.mod_eq_of_lt ha
    rw [State.read_reset, hcell, initialByte_outside hout]

end Sys2Proof.Machine
end

section
/-!
SUPPORT. Facts about addresses, the fetch and stores that the statements on memory (spec/20_memory.md) share.
-/

namespace Sys2Proof

/-- Two bytes joined, the first the high one, as a number (R63). -/
theorem toNat_joinBytes (hi lo : Byte) : (joinBytes hi lo).toNat = hi.toNat * 256 + lo.toNat := by
  have hhi : (hi.setWidth 16 <<< 8).toNat = hi.toNat <<< 8 := by
    simp [Nat.shiftLeft_eq]
    omega
  have hlo : (lo.setWidth 16).toNat = lo.toNat := BitVec.toNat_setWidth_of_le (by decide)
  rw [joinBytes, BitVec.toNat_or, hhi, hlo, ← Nat.shiftLeft_add_eq_or_of_lt lo.isLt, Nat.shiftLeft_eq]

end Sys2Proof

namespace Sys2Proof.Machine

/-! ### Addresses -/

/-- `PC + 1` selects the same cell whether or not it wraps at 65536, a multiple of the memory's size. -/
theorem memCell_pc_succ (pc : Word) : memCell (pc + 1).toNat = memCell (pc.toNat + 1) := by
  rw [memCell, BitVec.toNat_add]
  exact Nat.mod_mod_of_dvd _ (by decide)

/-- Addresses that select the same cell are followed by addresses that do. -/
theorem memCell_add_congr {a b : Nat} (h : memCell a = memCell b) (k : Nat) : memCell (a + k) = memCell (b + k) :=
  Nat.ModEq.add_right k h

/-- A write of bytes depends on the cell its address selects alone. -/
theorem memWriteBytes_congr (bs : List Byte) : ∀ (m : Memory) {a b : Nat}, memCell a = memCell b →
    memWriteBytes m a bs = memWriteBytes m b bs := by
  induction bs with
  | nil => intros; rfl
  | cons c bs ih =>
    intro m a b h
    rw [memWriteBytes, memWriteBytes, ih _ (memCell_add_congr h 1), memWrite, memWrite, h]

theorem State.read_congr (s : State) {a b : Nat} (h : memCell a = memCell b) : s.read a = s.read b :=
  memRead_congr s.mem h

/-- The second byte of a fetch is the one after `PC`, as a number. -/
theorem State.read_pc_succ (s : State) : s.read (s.pc + 1).toNat = s.read (s.pc.toNat + 1) :=
  s.read_congr (memCell_pc_succ s.pc)

/-! ### Stores of register blocks -/

/-- What a store of `V[0..x]` leaves where it wrote (R211). -/
theorem State.read_storedBlock (s : State) {x k : RegIdx} (hk : k ≤ x) :
    (s.writeBytes (s.dataAddr 0) (s.regBlock x)).read (s.dataAddr 0 + k.val) = s.reg k := by
  have hlen := s.length_regBlock x
  have hin : k.val < (s.regBlock x).length := hlen ▸ Nat.lt_succ_of_le hk
  rw [State.read, State.writeBytes_mem, memRead_memWriteBytes_inside _ _ _ _ hin (by omega),
    State.getElem_regBlock]

/-! ### The canonical form -/

/-- No handler leaves memory out of its canonical form: only two write it, and they write whole bytes. -/
theorem exec_keeps_wf {i : Instr} {s t : State} (hwf : Memory.wf s.mem) (h : exec i s = .next t) :
    Memory.wf t.mem := by
  by_cases hB : ∃ x, i = .ldB x
  · obtain ⟨x, rfl⟩ := hB
    cases h
    exact State.writeBytes_wf hwf _ _
  by_cases hMem : ∃ x, i = .ldMemVx x
  · obtain ⟨x, rfl⟩ := hMem
    cases h
    exact State.writeBytes_wf hwf _ _
  · obtain ⟨-, hmem, -⟩ := exec_access h
    rw [hmem (not_exists.1 hB) (not_exists.1 hMem)]
    exact hwf

end Sys2Proof.Machine
end

section
/-!
The statements of the family `20_memory.md`, settled.
-/

namespace Sys2Proof.Machine

/-- Settles O23: a Step changes memory only through its handler, and every handler keeps the canonical form. -/
theorem stepKeepsMemoryCanonical : Obligations.StepKeepsMemoryCanonical := by
  intro s t hwf h
  obtain ⟨f, rfl⟩ | ⟨u, hu, rfl⟩ := step_kept_or_ran h
  · exact hwf
  · exact exec_keeps_wf (s := s.fetched) (t := u) hwf hu

/-- Settles O10: the two bytes of a fetch are joined high byte first, and an address matters through its cell alone. -/
theorem fetchIsBigEndianAndAddressesWrap : Obligations.FetchIsBigEndianAndAddressesWrap := by
  refine ⟨fun s => ?_, fun s a => rfl, fun s a bs => ?_⟩
  · rw [State.fetchWord, toNat_joinBytes, State.read_pc_succ]
    rfl
  · have hcell : memCell a = memCell (a % 4096) := (memCell_memCell a).symm
    rw [State.writeBytes, memWriteBytes_congr bs s.mem hcell, State.writeBytes]

/-- Settles O53: the store puts `V[0]` and `V[1]` in the two cells the next fetch reads, and leaves `PC` alone. -/
theorem storedBytesAreFetchedNext : Obligations.StoredBytesAreFetchedNext := by
  intro x s hx hcell
  refine ⟨s.writeBytes (s.dataAddr 0) (s.regBlock x), rfl, ?_⟩
  rw [State.fetchWord, State.read_pc_succ, State.writeBytes_pc]
  rw [State.read_congr _ hcell.symm, State.read_congr _ (memCell_add_congr hcell 1).symm]
  have h0 := s.read_storedBlock (x := x) (k := 0) (Fin.zero_le x)
  have h1 := s.read_storedBlock (x := x) (k := 1) hx
  exact congrArg₂ joinBytes h0 h1

end Sys2Proof.Machine
end

section
/-!
SUPPORT. Facts about words, the decoder and the encoder that the statements on the encoding (spec/30_encoding.md)
share: a word is put together again from its fields, a mask compares fields, and the unassigned words are those whose
key is none of their class's.
-/

namespace Sys2Proof

/-! ### Words from their fields (R91, R92) -/

theorem packNNN_fields {w : Word} {op : Nat} (hop : fieldOp w = BitVec.ofNat 4 op) : packNNN op (fieldNNN w) = w := by
  have htop := congrArg BitVec.toNat hop
  have hw := w.isLt
  apply BitVec.eq_of_toNat_eq
  simp [packNNN, fieldOp, fieldNNN, Nat.shiftRight_eq_div_pow] at htop ⊢
  omega

theorem packXKK_fields {w : Word} {op : Nat} {kk : Byte} (hop : fieldOp w = BitVec.ofNat 4 op) (hkk : fieldKK w = kk) :
    packXKK op (fieldX w) kk = w := by
  subst hkk
  have htop := congrArg BitVec.toNat hop
  have hw := w.isLt
  apply BitVec.eq_of_toNat_eq
  simp [packXKK, fieldOp, fieldX, fieldKK, Nat.shiftRight_eq_div_pow] at htop ⊢
  omega

theorem packXYN_fields {w : Word} {op n : Nat} (hop : fieldOp w = BitVec.ofNat 4 op) (hn : (fieldN w).toNat = n) :
    packXYN op (fieldX w) (fieldY w) n = w := by
  subst hn
  have htop := congrArg BitVec.toNat hop
  have hw := w.isLt
  apply BitVec.eq_of_toNat_eq
  simp [packXYN, fieldOp, fieldX, fieldY, fieldN, Nat.shiftRight_eq_div_pow] at htop ⊢
  omega

theorem packClass0_fields {w : Word} {n : Nat} (hop : fieldOp w = 0x0#4) (hn : (fieldN w).toNat = n) :
    packClass0 (fieldPadXY w) n = w := by
  subst hn
  have htop := congrArg BitVec.toNat hop
  have hw := w.isLt
  apply BitVec.eq_of_toNat_eq
  simp [packClass0, fieldOp, fieldPadXY, fieldN, Nat.shiftRight_eq_div_pow] at htop ⊢
  omega

/-! ### Fields of a word written as a number -/

theorem fieldOp_ofNat (n : Nat) : fieldOp (BitVec.ofNat 16 n) = BitVec.ofNat 4 (n / 0x1000) := by
  apply BitVec.eq_of_toNat_eq
  simp [fieldOp, Nat.shiftRight_eq_div_pow]
  omega

theorem fieldN_ofNat (n : Nat) : fieldN (BitVec.ofNat 16 n) = BitVec.ofNat 4 n := by
  apply BitVec.eq_of_toNat_eq
  simp [fieldN]

theorem fieldKK_ofNat (n : Nat) : fieldKK (BitVec.ofNat 16 n) = BitVec.ofNat 8 n := by
  apply BitVec.eq_of_toNat_eq
  simp [fieldKK]

/-! ### Masks -/

/-- Two words that agree under a mask agree in every field the mask keeps. -/
theorem extractLsb'_congr {w w' m : Word} {k n : Nat} (h : w &&& m = w' &&& m)
    (hm : m.extractLsb' k n = BitVec.allOnes n) : w.extractLsb' k n = w'.extractLsb' k n := by
  have hfield := congrArg (BitVec.extractLsb' k n) h
  rwa [BitVec.extractLsb'_and, BitVec.extractLsb'_and, hm, BitVec.and_allOnes, BitVec.and_allOnes] at hfield

/-- The mask 000F keeps the low nibble. -/
theorem and_lowNibbleMask (w : Word) : w &&& 0x000F#16 = (fieldN w).setWidth 16 := by
  ext i hi
  interval_cases i <;> simp [fieldN]

/-- The mask 00FF keeps the low byte. -/
theorem and_lowByteMask (w : Word) : w &&& 0x00FF#16 = (fieldKK w).setWidth 16 := by
  ext i hi
  interval_cases i <;> simp [fieldKK]

/-- What a word of a row with the mask F000 has for its class. -/
theorem fieldOp_of_classRow {w : Word} {n : Nat} (h : w &&& 0xF000#16 = BitVec.ofNat 16 n) :
    fieldOp w = BitVec.ofNat 4 (n / 0x1000) :=
  (fieldOp_of_and h (by decide)).trans (fieldOp_ofNat n)

/-- What a word of a row with the mask F00F has for its class and low nibble. -/
theorem fields_of_nibbleRow {w : Word} {n : Nat} (h : w &&& 0xF00F#16 = BitVec.ofNat 16 n) :
    fieldOp w = BitVec.ofNat 4 (n / 0x1000) ∧ fieldN w = BitVec.ofNat 4 n :=
  ⟨(fieldOp_of_and h (by decide)).trans (fieldOp_ofNat n), (fieldN_of_and h (by decide)).trans (fieldN_ofNat n)⟩

/-- What a word of a row with the mask F0FF has for its class and low byte. -/
theorem fields_of_byteRow {w : Word} {n : Nat} (h : w &&& 0xF0FF#16 = BitVec.ofNat 16 n) :
    fieldOp w = BitVec.ofNat 4 (n / 0x1000) ∧ fieldKK w = BitVec.ofNat 8 n :=
  ⟨(fieldOp_of_and h (by decide)).trans (fieldOp_ofNat n), (fieldKK_of_and h (by decide)).trans (fieldKK_ofNat n)⟩

/-! ### The unassigned words (R100) -/

/-- The low nibbles class 0 assigns (R95). -/
def class0Nibbles : List Nibble := [0x0#4, 0xE#4]

/-- The low nibbles class 8 assigns (R96). -/
def class8Nibbles : List Nibble := [0x0#4, 0x1#4, 0x2#4, 0x3#4, 0x4#4, 0x5#4, 0x6#4, 0x7#4, 0xE#4]

/-- The low nibbles class E assigns (R97). -/
def classENibbles : List Nibble := [0x1#4, 0xE#4]

/-- The low bytes class F assigns (R98). -/
def classFBytes : List Byte := [0x07#8, 0x0A#8, 0x15#8, 0x18#8, 0x1E#8, 0x29#8, 0x33#8, 0x55#8, 0x65#8]

/-- The model's keys of class F, read as words, are these bytes. -/
theorem and_mem_classFKeys (w : Word) : w &&& 0x00FF#16 ∈ classFKeys ↔ fieldKK w ∈ classFBytes := by
  have hinj : Function.Injective fun b : Byte => b.setWidth 16 := fun a b h => by
    simpa using congrArg (BitVec.setWidth 8) h
  rw [and_lowByteMask, ← List.mem_map_of_injective hinj]
  rfl

/-- The mask F000 compares classes. -/
theorem and_classMask_eq_iff (w : Word) (c : Nibble) :
    w &&& 0xF000#16 = c.setWidth 16 <<< 12 ↔ fieldOp w = c := by
  rw [and_classMask]
  generalize fieldOp w = op
  revert op c
  decide

/-- A word is unassigned exactly where its key is none of its class's. -/
theorem unassigned_iff (w : Word) : unassigned w = true ↔
    (fieldOp w = 0x0#4 ∧ fieldN w ∉ class0Nibbles) ∨ (fieldOp w = 0x8#4 ∧ fieldN w ∉ class8Nibbles) ∨
    (fieldOp w = 0xE#4 ∧ fieldN w ∉ classENibbles) ∨ (fieldOp w = 0xF#4 ∧ fieldKK w ∉ classFBytes) := by
  have h0 : w &&& 0xF000#16 = 0x0000#16 ↔ fieldOp w = 0x0#4 := and_classMask_eq_iff w 0x0#4
  have h8 : w &&& 0xF000#16 = 0x8000#16 ↔ fieldOp w = 0x8#4 := and_classMask_eq_iff w 0x8#4
  have hE : w &&& 0xF000#16 = 0xE000#16 ↔ fieldOp w = 0xE#4 := and_classMask_eq_iff w 0xE#4
  have hF : w &&& 0xF000#16 = 0xF000#16 ↔ fieldOp w = 0xF#4 := and_classMask_eq_iff w 0xF#4
  have hn0 : ∀ n : Nibble, n.setWidth 16 ≠ 0x0#16 ∧ n.setWidth 16 ≠ 0xE#16 ↔ n ∉ class0Nibbles := by decide
  have hn8 : ∀ n : Nibble,
      n.setWidth 16 ∈ [0x8#16, 0x9#16, 0xA#16, 0xB#16, 0xC#16, 0xD#16, 0xF#16] ↔ n ∉ class8Nibbles := by decide
  have hnE : ∀ n : Nibble, n.setWidth 16 ≠ 0x1#16 ∧ n.setWidth 16 ≠ 0xE#16 ↔ n ∉ classENibbles := by decide
  simp only [unassigned, and_lowNibbleMask, Bool.or_eq_true, Bool.and_eq_true, beq_iff_eq, bne_iff_ne,
    Bool.not_eq_true', decide_eq_true_eq, decide_eq_false_iff_not, and_assoc, or_assoc, h0, h8, hE, hF, hn0, hn8, hnE,
    and_mem_classFKeys]

/-! ### The decoder, class by class -/

theorem decodeWord_class0 {w : Word} (hop : fieldOp w = 0x0#4) : decodeWord w = decodeClass0 w := by
  simp [decodeWord, hop]

theorem decodeWord_class8 {w : Word} (hop : fieldOp w = 0x8#4) : decodeWord w = decodeClass8 w := by
  simp [decodeWord, hop]

theorem decodeWord_classE {w : Word} (hop : fieldOp w = 0xE#4) : decodeWord w = decodeClassE w := by
  simp [decodeWord, hop]

theorem decodeWord_classF {w : Word} (hop : fieldOp w = 0xF#4) : decodeWord w = decodeClassF w := by
  simp [decodeWord, hop]

/-- Class 0, key by key (R95). -/
theorem decodeClass0_eq (w : Word) : decodeClass0 w =
    if fieldN w = 0x0#4 then .cls (fieldPadXY w)
    else if fieldN w = 0xE#4 then .ret (fieldPadXY w)
    else .nop w := by
  fun_cases decodeClass0 w <;> simp_all

/-- Class 8, key by key (R96). -/
theorem decodeClass8_eq (w : Word) : decodeClass8 w =
    if fieldN w = 0x0#4 then .ldReg (fieldX w) (fieldY w)
    else if fieldN w = 0x1#4 then .orReg (fieldX w) (fieldY w)
    else if fieldN w = 0x2#4 then .andReg (fieldX w) (fieldY w)
    else if fieldN w = 0x3#4 then .xorReg (fieldX w) (fieldY w)
    else if fieldN w = 0x4#4 then .addReg (fieldX w) (fieldY w)
    else if fieldN w = 0x5#4 then .subReg (fieldX w) (fieldY w)
    else if fieldN w = 0x6#4 then .shr (fieldX w) (fieldPadY w)
    else if fieldN w = 0x7#4 then .subnReg (fieldX w) (fieldY w)
    else if fieldN w = 0xE#4 then .shl (fieldX w) (fieldPadY w)
    else .nop w := by
  fun_cases decodeClass8 w <;> simp_all

/-- Class E, key by key (R97). -/
theorem decodeClassE_eq (w : Word) : decodeClassE w =
    if fieldN w = 0x1#4 then .sknp (fieldX w) (fieldPadY w)
    else if fieldN w = 0xE#4 then .skp (fieldX w) (fieldPadY w)
    else .nop w := by
  fun_cases decodeClassE w <;> simp_all

/-- Class F, key by key (R98). -/
theorem decodeClassF_eq (w : Word) : decodeClassF w =
    if fieldKK w = 0x07#8 then .ldVxDt (fieldX w)
    else if fieldKK w = 0x0A#8 then .ldVxK (fieldX w)
    else if fieldKK w = 0x15#8 then .ldDtVx (fieldX w)
    else if fieldKK w = 0x18#8 then .ldStVx (fieldX w)
    else if fieldKK w = 0x1E#8 then .addI (fieldX w)
    else if fieldKK w = 0x29#8 then .ldF (fieldX w)
    else if fieldKK w = 0x33#8 then .ldB (fieldX w)
    else if fieldKK w = 0x55#8 then .ldMemVx (fieldX w)
    else if fieldKK w = 0x65#8 then .ldVxMem (fieldX w)
    else .nop w := by
  fun_cases decodeClassF w <;> simp_all

/-! A key that the class does not assign decodes to the no-op (R100). -/

theorem decodeClass0_eq_nop {w : Word} (h : fieldN w ∉ class0Nibbles) : decodeClass0 w = .nop w := by
  simp_all [decodeClass0_eq, class0Nibbles]

theorem decodeClass8_eq_nop {w : Word} (h : fieldN w ∉ class8Nibbles) : decodeClass8 w = .nop w := by
  simp_all [decodeClass8_eq, class8Nibbles]

theorem decodeClassE_eq_nop {w : Word} (h : fieldN w ∉ classENibbles) : decodeClassE w = .nop w := by
  simp_all [decodeClassE_eq, classENibbles]

theorem decodeClassF_eq_nop {w : Word} (h : fieldKK w ∉ classFBytes) : decodeClassF w = .nop w := by
  simp_all [decodeClassF_eq, classFBytes]

theorem decodeWord_unassigned {w : Word} (h : unassigned w = true) : decodeWord w = .nop w := by
  obtain ⟨hop, hkey⟩ | ⟨hop, hkey⟩ | ⟨hop, hkey⟩ | ⟨hop, hkey⟩ := (unassigned_iff w).1 h
  · exact (decodeWord_class0 hop).trans (decodeClass0_eq_nop hkey)
  · exact (decodeWord_class8 hop).trans (decodeClass8_eq_nop hkey)
  · exact (decodeWord_classE hop).trans (decodeClassE_eq_nop hkey)
  · exact (decodeWord_classF hop).trans (decodeClassF_eq_nop hkey)

/-! ### Decoding an encoded instruction -/

/-- The encoder's word decodes to the instruction: by the layout of the instruction's row, whose fields are read back
one by one. -/
theorem decodeWord_encode {i : Instr} (h : i.wellFormed = true) : decodeWord (encode i) = i := by
  cases i
  case cls | ret =>
    simp [encode, decodeWord, decodeClass0, fieldOp_packClass0, fieldN_packClass0, fieldPadXY_packClass0]
  case jp | call | ldI | jpV0 => simp [encode, decodeWord, fieldOp_packNNN, fieldNNN_packNNN]
  case seImm | sneImm | ldImm | addImm | rnd =>
    simp [encode, decodeWord, fieldOp_packXKK, fieldX_packXKK, fieldKK_packXKK]
  case ldVxDt | ldVxK | ldDtVx | ldStVx | addI | ldF | ldB | ldMemVx | ldVxMem =>
    simp [encode, decodeWord, decodeClassF, fieldOp_packXKK, fieldX_packXKK, fieldKK_packXKK]
  case seReg | sneReg | drw =>
    simp (disch := omega) [encode, decodeWord, fieldOp_packXYN, fieldN_packXYN, Fin.ext_iff, fieldX_packXYN,
      fieldY_packXYN]
  case ldReg | orReg | andReg | xorReg | addReg | subReg | subnReg =>
    simp (disch := omega) [encode, decodeWord, decodeClass8, fieldOp_packXYN, fieldN_packXYN, Fin.ext_iff,
      fieldX_packXYN, fieldY_packXYN]
  case shr | shl =>
    simp (disch := omega) [encode, decodeWord, decodeClass8, fieldOp_packXYN, fieldN_packXYN, Fin.ext_iff,
      fieldX_packXYN, BitVec.toNat_eq, fieldPadY_packXYN]
  case skp | sknp =>
    simp (disch := omega) [encode, decodeWord, decodeClassE, fieldOp_packXYN, fieldN_packXYN, Fin.ext_iff,
      fieldX_packXYN, BitVec.toNat_eq, fieldPadY_packXYN]
  case nop w => exact decodeWord_unassigned h

/-! ### Encoding a decoded word -/

/-- A well-formed instruction and its word. -/
def EncodesTo (i : Instr) (w : Word) : Prop := i.wellFormed = true ∧ encode i = w

theorem nop_encodesTo_iff {u w : Word} : EncodesTo (.nop u) w ↔ unassigned u = true ∧ u = w := Iff.rfl

theorem decodeClass0_encodesTo {w : Word} (hop : fieldOp w = 0x0#4) : EncodesTo (decodeClass0 w) w := by
  by_cases hkey : fieldN w ∈ class0Nibbles
  · fun_cases decodeClass0 w
    case case1 hn | case2 hn => exact ⟨rfl, packClass0_fields hop (by rw [hn]; rfl)⟩
    case case3 => simp_all [class0Nibbles]
  · rw [decodeClass0_eq_nop hkey, nop_encodesTo_iff, unassigned_iff]
    exact ⟨.inl ⟨hop, hkey⟩, rfl⟩

theorem decodeClass8_encodesTo {w : Word} (hop : fieldOp w = 0x8#4) : EncodesTo (decodeClass8 w) w := by
  by_cases hkey : fieldN w ∈ class8Nibbles
  · fun_cases decodeClass8 w
    case case1 hn | case2 hn | case3 hn | case4 hn | case5 hn | case6 hn | case7 hn | case8 hn | case9 hn =>
      exact ⟨rfl, packXYN_fields hop (by rw [hn]; rfl)⟩
    case case10 => simp_all [class8Nibbles]
  · rw [decodeClass8_eq_nop hkey, nop_encodesTo_iff, unassigned_iff]
    exact ⟨.inr (.inl ⟨hop, hkey⟩), rfl⟩

theorem decodeClassE_encodesTo {w : Word} (hop : fieldOp w = 0xE#4) : EncodesTo (decodeClassE w) w := by
  by_cases hkey : fieldN w ∈ classENibbles
  · fun_cases decodeClassE w
    case case1 hn | case2 hn => exact ⟨rfl, packXYN_fields hop (by rw [hn]; rfl)⟩
    case case3 => simp_all [classENibbles]
  · rw [decodeClassE_eq_nop hkey, nop_encodesTo_iff, unassigned_iff]
    exact ⟨.inr (.inr (.inl ⟨hop, hkey⟩)), rfl⟩

theorem decodeClassF_encodesTo {w : Word} (hop : fieldOp w = 0xF#4) : EncodesTo (decodeClassF w) w := by
  by_cases hkey : fieldKK w ∈ classFBytes
  · fun_cases decodeClassF w
    case case1 hk | case2 hk | case3 hk | case4 hk | case5 hk | case6 hk | case7 hk | case8 hk | case9 hk =>
      exact ⟨rfl, packXKK_fields hop hk⟩
    case case10 => simp_all [classFBytes]
  · rw [decodeClassF_eq_nop hkey, nop_encodesTo_iff, unassigned_iff]
    exact ⟨.inr (.inr (.inr ⟨hop, hkey⟩)), rfl⟩

/-- Every word decodes to a well-formed instruction whose word it is: by the class of the word. -/
theorem decodeWord_encodesTo (w : Word) : EncodesTo (decodeWord w) w := by
  fun_cases decodeWord w
  case case1 hop => exact decodeClass0_encodesTo hop
  case case2 hop | case3 hop | case11 hop | case12 hop => exact ⟨rfl, packNNN_fields hop⟩
  case case4 hop | case5 hop | case7 hop | case8 hop | case13 hop => exact ⟨rfl, packXKK_fields hop rfl⟩
  case case6 hop | case10 hop | case14 hop => exact ⟨rfl, packXYN_fields hop rfl⟩
  case case9 hop => exact decodeClass8_encodesTo hop
  case case15 hop => exact decodeClassE_encodesTo hop
  case case16 =>
    -- The other fifteen classes are ruled out.
    have hop : fieldOp w = 0xF#4 := by
      generalize fieldOp w = op at *
      decide +revert
    exact decodeClassF_encodesTo hop

/-- Exactly the unassigned words decode to the no-op (R100). -/
theorem unassigned_iff_decodeWord_nop (w : Word) : unassigned w = true ↔ ∃ u, decodeWord w = .nop u := by
  refine ⟨fun h => ⟨w, decodeWord_unassigned h⟩, fun ⟨u, hu⟩ => ?_⟩
  obtain ⟨hunassigned, rfl⟩ := nop_encodesTo_iff.1 (hu ▸ decodeWord_encodesTo w)
  exact hunassigned

/-! ### Rows of the opcode map (R103) -/

section
open Laws.TableRow

/-- Every instruction's word lies in its row. -/
theorem encode_and_rowMask : ∀ i : Instr, encode i &&& rowMask i = rowMatch i
  | .cls p => cls p | .ret p => ret p | .jp a => jp a | .call a => call a | .seImm x k => seImm x k
  | .sneImm x k => sneImm x k | .seReg x y p => seReg x y p | .ldImm x k => ldImm x k | .addImm x k => addImm x k
  | .ldReg x y => ldReg x y | .orReg x y => orReg x y | .andReg x y => andReg x y | .xorReg x y => xorReg x y
  | .addReg x y => addReg x y | .subReg x y => subReg x y | .shr x p => shr x p | .subnReg x y => subnReg x y
  | .shl x p => shl x p | .sneReg x y p => sneReg x y p | .ldI a => ldI a | .jpV0 a => jpV0 a | .rnd x k => rnd x k
  | .drw x y n => drw x y n | .skp x p => skp x p | .sknp x p => sknp x p | .ldVxDt x => ldVxDt x | .ldVxK x => ldVxK x
  | .ldDtVx x => ldDtVx x | .ldStVx x => ldStVx x | .addI x => addI x | .ldF x => ldF x | .ldB x => ldB x
  | .ldMemVx x => ldMemVx x | .ldVxMem x => ldVxMem x | .nop w => nop w

end

/-- Every word lies in the row the decoder selects for it. -/
theorem and_rowMask_decodeWord (w : Word) : w &&& rowMask (decodeWord w) = rowMatch (decodeWord w) := by
  obtain ⟨-, hw⟩ := decodeWord_encodesTo w
  have hrow := encode_and_rowMask (decodeWord w)
  rwa [hw] at hrow

/-- The decoder selects every row that a word lies in: by the mask of the row, which fixes the fields the decoder
looks at. -/
theorem decodeWord_selects_row {w : Word} {i : Instr} (hi : ∀ u, i ≠ .nop u) (h : w &&& rowMask i = rowMatch i) :
    rowMask (decodeWord w) = rowMask i ∧ rowMatch (decodeWord w) = rowMatch i := by
  cases i
  case nop u => exact absurd rfl (hi u)
  case jp | call | seImm | sneImm | seReg | ldImm | addImm | sneReg | ldI | jpV0 | rnd | drw =>
    simp only [rowMask, rowMatch] at h ⊢
    have hop := fieldOp_of_classRow h
    simp [decodeWord, hop]
  case cls | ret | ldReg | orReg | andReg | xorReg | addReg | subReg | shr | subnReg | shl | skp | sknp =>
    simp only [rowMask, rowMatch] at h ⊢
    obtain ⟨hop, hn⟩ := fields_of_nibbleRow h
    simp [decodeWord, decodeClass0, decodeClass8, decodeClassE, hop, hn]
  case ldVxDt | ldVxK | ldDtVx | ldStVx | addI | ldF | ldB | ldMemVx | ldVxMem =>
    simp only [rowMask, rowMatch] at h ⊢
    obtain ⟨hop, hkk⟩ := fields_of_byteRow h
    simp [decodeWord, decodeClassF, hop, hkk]

/-! ### Don't-care bits (R99) -/

section dontCare

open Machine

variable {w w' : Word} (s : State)

/-- CLS and RET do not look at bits [11:4]. -/
theorem exec_decodeWord_padXY (h : w &&& 0xF00F#16 = w' &&& 0xF00F#16) (hop : fieldOp w = 0x0#4)
    (hn : fieldN w = 0x0#4 ∨ fieldN w = 0xE#4) : exec (decodeWord w) s = exec (decodeWord w') s := by
  have hop' : fieldOp w = fieldOp w' := extractLsb'_congr h (by decide)
  have hn' : fieldN w = fieldN w' := extractLsb'_congr h (by decide)
  rw [decodeWord_class0 hop, decodeWord_class0 (hop' ▸ hop), decodeClass0_eq, decodeClass0_eq, ← hn']
  obtain hn | hn := hn <;> simp [hn, exec]

/-- The register compares do not look at bits [3:0]. -/
theorem exec_decodeWord_padN (h : w &&& 0xFFF0#16 = w' &&& 0xFFF0#16) (hop : fieldOp w = 0x5#4 ∨ fieldOp w = 0x9#4) :
    exec (decodeWord w) s = exec (decodeWord w') s := by
  have hop' : fieldOp w = fieldOp w' := extractLsb'_congr h (by decide)
  have hx : fieldX w = fieldX w' := congrArg BitVec.toFin (extractLsb'_congr h (by decide))
  have hy : fieldY w = fieldY w' := congrArg BitVec.toFin (extractLsb'_congr h (by decide))
  obtain hop | hop := hop <;> simp [decodeWord, hop, ← hop', hx, hy, exec]

/-- The shifts and the key skips do not look at bits [7:4]. -/
theorem exec_decodeWord_padY (h : w &&& 0xFF0F#16 = w' &&& 0xFF0F#16)
    (hrow : fieldOp w = 0x8#4 ∧ (fieldN w = 0x6#4 ∨ fieldN w = 0xE#4) ∨
      fieldOp w = 0xE#4 ∧ (fieldN w = 0x1#4 ∨ fieldN w = 0xE#4)) :
    exec (decodeWord w) s = exec (decodeWord w') s := by
  have hop' : fieldOp w = fieldOp w' := extractLsb'_congr h (by decide)
  have hn' : fieldN w = fieldN w' := extractLsb'_congr h (by decide)
  have hx : fieldX w = fieldX w' := congrArg BitVec.toFin (extractLsb'_congr h (by decide))
  obtain ⟨hop, hn⟩ | ⟨hop, hn⟩ := hrow
  · rw [decodeWord_class8 hop, decodeWord_class8 (hop' ▸ hop), decodeClass8_eq, decodeClass8_eq, ← hn', hx]
    obtain hn | hn := hn <;> simp [hn, exec]
  · rw [decodeWord_classE hop, decodeWord_classE (hop' ▸ hop), decodeClassE_eq, decodeClassE_eq, ← hn', hx]
    obtain hn | hn := hn <;> simp [hn, exec]

end dontCare

end Sys2Proof

namespace Sys2Proof.Machine

/-! ### Frames -/

theorem PartKept.trans {s t u : State} {p : Part} (hst : PartKept s t p) (htu : PartKept t u p) : PartKept s u p := by
  cases p <;> simp_all [PartKept]

theorem KeptBut.trans {parts : List Part} {s t u : State} (hst : KeptBut parts s t) (htu : KeptBut parts t u) :
    KeptBut parts s u :=
  fun p hp => (hst p hp).trans (htu p hp)

/-- A part that is kept need not be listed. -/
theorem KeptBut.of_cons {p : Part} {parts : List Part} {s t : State} (h : KeptBut (p :: parts) s t)
    (hp : PartKept s t p) : KeptBut parts s t := by
  intro q hq
  by_cases hqp : q = p
  · exact hqp ▸ hp
  · exact h q (by simp [hqp, hq])

/-- A fetch, a write of `PC` and a tick keep all but `PC`, `IR` and the timers. -/
theorem State.fetched_setPc_tick_kept (s : State) (a : Word) :
    KeptBut [.pc, .ir, .dt, .st] s (s.fetched.setPc a).tick := by
  intro p hp
  have hrefl := PartKept.refl s p
  cases p
  case pc | ir | dt | st => simp at hp
  all_goals exact hrefl

/-! ### Steps -/

/-- A Step answers a next state from every state: every handler does (R101). -/
theorem exists_step_next (s : State) : ∃ t, step s = .next t := by
  cases hs : s.fault with
  | some c => exact ⟨s, step_faulted hs⟩
  | none =>
    obtain ⟨u, hu⟩ := exec_next (decodeWord s.fetchWord) s.fetched
    rw [step_ready hs, hu]
    cases hf : u.fault with
    | none => exact ⟨_, finishStep_ready hf⟩
    | some c => exact ⟨_, finishStep_faulted hf⟩

/-- A Step at an unassigned word is a fetch and a tick (R125). -/
theorem step_unassigned {s : State} (hs : s.ready) (hw : unassigned s.fetchWord = true) :
    step s = .next s.fetched.tick := by
  rw [step_ready hs, decodeWord_unassigned hw]
  exact finishStep_ready hs

/-- The fetch depends on memory and `PC` alone. -/
theorem State.fetchWord_congr {s t : State} (hmem : t.mem = s.mem) (hpc : t.pc = s.pc) : t.fetchWord = s.fetchWord := by
  simp only [State.fetchWord, State.read, hmem, hpc]

/-- A self-jump depends on memory and `PC` alone. -/
theorem State.atSelfJump_congr {s t : State} (hmem : t.mem = s.mem) (hpc : t.pc = s.pc) (hj : s.atSelfJump) :
    t.atSelfJump := by
  rwa [State.atSelfJump, State.fetchWord_congr hmem hpc, hpc]

/-- A Step at a jump to itself is a fetch, with `PC` put back, and a tick: it leaves a ready state at the same jump
(R105). -/
theorem step_atSelfJump {s : State} (hs : s.ready) (hj : s.atSelfJump) :
    ∃ t, step s = .next t ∧ t.ready ∧ t.atSelfJump ∧ t.dt.toNat = s.dt.toNat - 1 ∧ t.st.toNat = s.st.toNat - 1 ∧
      KeptBut [.ir, .dt, .st] s t := by
  have hstep : step s = .next (s.fetched.setPc s.pc).tick := by
    obtain ⟨nnn, hi, hpc⟩ := hj
    rw [step_ready hs, hi, ← hpc]
    exact finishStep_ready hs
  have hjump : (s.fetched.setPc s.pc).tick.atSelfJump := State.atSelfJump_congr (s := s) rfl rfl hj
  have hkept : KeptBut [.ir, .dt, .st] s (s.fetched.setPc s.pc).tick :=
    (s.fetched_setPc_tick_kept s.pc).of_cons rfl
  exact ⟨_, hstep, hs, hjump, tickTimer_toNat s.dt, tickTimer_toNat s.st, hkept⟩

/-- A run of one Step more, where the Step answers a next state. -/
theorem coreRun_succ (M : Host.Core) {s t : M.State} (k : Nat) (h : M.step s = .next t) :
    M.run (k + 1) s = M.run k t := by
  simp [Host.Core.run, h]

end Sys2Proof.Machine
end

section
/-!
The statements of the family `30_encoding.md`, settled.
-/

namespace Sys2Proof.Machine

/-- Settles O1, layout by layout. -/
theorem encodeThenDecodeGivesInstructionBack : Obligations.EncodeThenDecodeGivesInstructionBack :=
  fun _ => decodeWord_encode

/-- Settles O2, class by class. -/
theorem decodeThenEncodeGivesWordBack : Obligations.DecodeThenEncodeGivesWordBack :=
  decodeWord_encodesTo

/-- Settles O3: the mask of a row fixes the fields that the decoder looks at; conversely a word lies in the row that
the decoder selects, since it is that instruction's word. -/
theorem decoderSelectsTheMatchingRow : Obligations.DecoderSelectsTheMatchingRow := by
  refine fun w i hi => ⟨decodeWord_selects_row hi, fun ⟨hmask, hmatch⟩ => ?_⟩
  rw [← hmask, ← hmatch]
  exact and_rowMask_decodeWord w

/-- Settles O4, from the two classes' keys. -/
theorem classesZeroAndEDecodeOnLowNibble : Obligations.ClassesZeroAndEDecodeOnLowNibble :=
  ⟨fun w hop => (decodeWord_class0 hop).trans (decodeClass0_eq w), by decide,
    fun w hop => (decodeWord_classE hop).trans (decodeClassE_eq w)⟩

/-- Settles O5, from the two classes' keys. -/
theorem classesEightAndFDecodeOnTheirKeys : Obligations.ClassesEightAndFDecodeOnTheirKeys :=
  ⟨fun w hop => (decodeWord_class8 hop).trans (decodeClass8_eq w),
    fun w hop => (decodeWord_classF hop).trans (decodeClassF_eq w)⟩

/-- Settles O6: an unassigned word's Step is a fetch and a tick. -/
theorem unassignedWordsAreNoOps : Obligations.UnassignedWordsAreNoOps := by
  refine ⟨unassigned_iff_decodeWord_nop, fun _ _ => rfl, fun s hs hw => ?_⟩
  exact ⟨_, step_unassigned hs hw, rfl, tickTimer_toNat s.dt, tickTimer_toNat s.st,
    s.fetched_setPc_tick_kept (s.pc + 2)⟩

/-- Settles O7, by decoding the twelve words. -/
theorem spelledWordsDecode : Obligations.SpelledWordsDecode := by
  unfold Obligations.SpelledWordsDecode
  decide

/-- Settles O8: two such words agree in every field that reaches a handler. -/
theorem dontCareBitsHaveNoEffect : Obligations.DontCareBitsHaveNoEffect :=
  fun _ _ s => ⟨exec_decodeWord_padXY s, exec_decodeWord_padN s, exec_decodeWord_padY s⟩

/-- Settles O13. -/
theorem stepAlwaysAnswersANextState : Obligations.StepAlwaysAnswersANextState :=
  exists_step_next

/-- Settles O59, by induction on the number of Steps: each one ticks the timers and leaves a ready state at the same
jump. -/
theorem selfJumpOnlyRunsTheTimersDown : Obligations.SelfJumpOnlyRunsTheTimersDown := by
  intro k
  induction k with
  | zero => exact fun s _ hj => ⟨s, rfl, hj, rfl, rfl, fun p _ => PartKept.refl s p⟩
  | succ k ih =>
    intro s hs hj
    obtain ⟨t, hstep, htReady, htJump, htDt, htSt, htKept⟩ := step_atSelfJump hs hj
    obtain ⟨u, hrun, huJump, huDt, huSt, huKept⟩ := ih t htReady htJump
    exact ⟨u, (coreRun_succ core k hstep).trans hrun, huJump, by omega, by omega, htKept.trans huKept⟩

end Sys2Proof.Machine
end

section
/-!
SUPPORT. Facts about the fetch and about faults that the statements on the cycle
(spec/40_cycle_and_dispatch.md) rest on.
-/

namespace Sys2Proof.Machine

/-! ### The fetch -/

/-- The fetched word, with the second address computed as a number. -/
theorem State.fetchWord_eq (s : State) :
    s.fetchWord = joinBytes (s.read s.pc.toNat) (s.read (s.pc.toNat + 1)) := by
  rw [State.fetchWord, State.read_pc_succ]

/-- The two bytes at `PC` decode to the instruction of the fetched word, with nothing left over. -/
theorem State.decode_bytes_at_pc (s : State) :
    decode [s.read s.pc.toNat, s.read (s.pc.toNat + 1)] = .ok (decodeWord s.fetchWord, []) := by
  rw [s.fetchWord_eq, decode]

/-! ### Faults -/

/-- A run under a latched fault stays where it is (R126). -/
theorem coreRun_faulted {s : State} {c : Fault} (hc : s.fault = some c) (k : Nat) :
    Host.Core.run core k s = .next s := by
  induction k with
  | zero => rfl
  | succ k ih => exact (coreRun_succ core k (step_faulted hc)).trans ih

/-- A Step that faults ran a handler that raised the fault, and changes nothing but the latch (R127). -/
theorem step_faulting_cases {s t : State} (hs : s.ready) (h : step s = .next t) (ht : ¬ t.ready) :
    ∃ u, exec (decodeWord s.fetchWord) s.fetched = .next u ∧ u.fault ≠ none ∧ t = { s with fault := u.fault } := by
  obtain ⟨hf, -⟩ | ⟨-, u, hu, ⟨hn, rfl⟩ | ⟨c, hc, rfl⟩⟩ := step_cases h
  · exact absurd hs hf
  · exact absurd hn ht
  · exact ⟨u, hu, by simp [hc], by rw [hc]⟩

end Sys2Proof.Machine
end

section
/-!
The statements of the family `40_cycle_and_dispatch.md`, settled.
-/

namespace Sys2Proof.Machine

/-- Settles O9: the bytes at `PC` decode to the instruction the Step runs; every handler answers a next state, which
is then ticked or discarded. -/
theorem stepRunsTheDecodedInstruction : Obligations.StepRunsTheDecodedInstruction := by
  intro s i rest hs hdecode u
  have hi : decodeWord s.fetchWord = i := by
    rw [s.decode_bytes_at_pc] at hdecode
    cases hdecode
    rfl
  have hu : s.fetched = u := by rw [State.fetched, s.fetchWord_eq]
  obtain ⟨t, ht⟩ := exec_next i u
  rw [step_ready hs, hi, hu, ht]
  cases hf : t.fault with
  | none => simp [finishStep_ready hf, hf, State.tick, tickTimer]
  | some c => simp [finishStep_faulted hf, hf]

/-- Settles O11, by induction on the number of Steps. -/
theorem faultedEngineNeverChanges : Obligations.FaultedEngineNeverChanges := by
  intro s k hs
  obtain ⟨c, hc⟩ := Option.ne_none_iff_exists'.1 hs
  exact coreRun_faulted hc k

/-- Settles O12: the fault was raised by the handler, and only CALL and RET raise one (`exec_fault`). -/
theorem faultingStepCommitsOnlyTheLatch : Obligations.FaultingStepCommitsOnlyTheLatch := by
  intro s t hs h ht
  obtain ⟨u, hu, hfault, rfl⟩ := step_faulting_cases hs h ht
  obtain ⟨hsp, hcause, hcall⟩ | ⟨hsp, hcause, hret⟩ := exec_fault (s := s.fetched) hs hu hfault
  · exact .inl ⟨by rw [hcause], hsp, hcall⟩
  · exact .inr ⟨by rw [hcause], hsp, hret⟩

/-- Settles O14: the handler writes a timer only as its own instruction (`exec_timers`), and the tick comes after the
handler. -/
theorem timersTickAtTheEndOfEveryStep : Obligations.TimersTickAtTheEndOfEveryStep := by
  intro s t hs h ht
  obtain ⟨u, hu, rfl⟩ := step_ready_cases hs h ht
  obtain ⟨hdtWritten, hdtKept, hstWritten, hstKept⟩ := exec_timers hu
  have hdt : u.tick.dt.toNat = u.dt.toNat - 1 := tickTimer_toNat u.dt
  have hst : u.tick.st.toNat = u.st.toNat - 1 := tickTimer_toNat u.st
  refine ⟨fun x hx => ?_, fun hx => ?_, fun x hx => ?_, fun hx => ?_, fun x hx => ?_⟩
  · rw [hdt, hdtWritten x hx, State.reg, State.fetched_v, State.reg]
  · rw [hdt, hdtKept hx, State.fetched_dt]
  · rw [hst, hstWritten x hx, State.reg, State.fetched_v, State.reg]
  · rw [hst, hstKept hx, State.fetched_st]
  · rw [hx] at hu
    cases hu
    exact State.reg_setReg_same s.fetched x s.dt

end Sys2Proof.Machine
end

section
/-!
SUPPORT. Facts about decoding, frames and the widened address that the statements on control flow
(spec/41_control_flow.md) share.
-/

namespace Sys2Proof

/-! ### The decoder on the rows of control flow (R103) -/

theorem decodeWord_class1 {w : Word} (hop : fieldOp w = 0x1#4) : decodeWord w = .jp (fieldNNN w) := by
  simp [decodeWord, hop]

theorem decodeWord_class2 {w : Word} (hop : fieldOp w = 0x2#4) : decodeWord w = .call (fieldNNN w) := by
  simp [decodeWord, hop]

theorem decodeWord_classB {w : Word} (hop : fieldOp w = 0xB#4) : decodeWord w = .jpV0 (fieldNNN w) := by
  simp [decodeWord, hop]

theorem decodeWord_retRow {w : Word} (h : w &&& 0xF00F#16 = 0x000E#16) : decodeWord w = .ret (fieldPadXY w) := by
  obtain ⟨hop, hn⟩ := fields_of_nibbleRow h
  rw [decodeWord_class0 hop, decodeClass0_eq, hn]
  rfl

end Sys2Proof

namespace Sys2Proof.Machine

/-! ### Widened operands (R93) -/

theorem toNat_immAddr (nnn : Addr12) : (immAddr nnn).toNat = nnn.toNat :=
  BitVec.toNat_setWidth_of_le (by decide)

theorem toNat_zext16 (b : Byte) : (zext16 b).toNat = b.toNat :=
  BitVec.toNat_setWidth_of_le (by decide)

/-- An address and a byte are too small for their sum to wrap at 65536 (R143). -/
theorem toNat_immAddr_add_zext16 (nnn : Addr12) (b : Byte) :
    (immAddr nnn + zext16 b).toNat = nnn.toNat + b.toNat := by
  have hsum : (immAddr nnn).toNat + (zext16 b).toNat = nnn.toNat + b.toNat := by rw [toNat_immAddr, toNat_zext16]
  rw [BitVec.toNat_add_of_lt (by omega), hsum]

/-! ### Frames -/

/-- A state that differs from another at most in `PC`, stack, `SP` and latch keeps all but those of them it changes. -/
theorem KeptBut.of_control {parts : List Part} {s t : State}
    (hrest : t = { s with pc := t.pc, stack := t.stack, sp := t.sp, fault := t.fault })
    (hpc : Part.pc ∉ parts → t.pc = s.pc) (hstack : Part.stack ∉ parts → t.stack = s.stack)
    (hsp : Part.sp ∉ parts → t.sp = s.sp) (hfault : Part.fault ∉ parts → t.fault = s.fault) : KeptBut parts s t := by
  intro p hp
  have hrefl := PartKept.refl s p
  cases p
  case pc => exact hpc hp
  case sp => exact hsp hp
  case fault => exact hfault hp
  case stack =>
    intro k
    rw [State.slot, hstack hp, State.slot]
  all_goals
    rw [hrest]
    exact hrefl

theorem State.setPc_kept (s : State) (a : Word) : KeptBut [.pc] s (s.setPc a) :=
  .of_control rfl (by simp) (fun _ => rfl) (fun _ => rfl) (fun _ => rfl)

/-- A push and a jump. -/
theorem State.pushReturn_setPc_kept (s : State) (a : Word) :
    KeptBut [.pc, .stack, .sp] s (s.pushReturn.setPc a) :=
  .of_control rfl (by simp) (by simp) (by simp) (fun _ => rfl)

theorem State.popReturn_kept (s : State) : KeptBut [.pc, .sp] s s.popReturn :=
  .of_control rfl (by simp) (fun _ => rfl) (by simp) (fun _ => rfl)

theorem State.takeFault_kept (s : State) (c : Fault) : KeptBut [.pc, .fault] s (s.takeFault c) :=
  .of_control rfl (by simp) (fun _ => rfl) (fun _ => rfl) (by simp)

end Sys2Proof.Machine
end

section
/-!
The statements of the family `41_control_flow.md`, settled.
-/

namespace Sys2Proof.Machine

/-- Settles O28, one clause per branch of the handler. -/
theorem callPushesTheReturnAddress : Obligations.CallPushesTheReturnAddress := by
  refine ⟨fun w h => decodeWord_class2 (fieldOp_of_classRow h), fun nnn s => ⟨fun hroom => ?_, fun hfull => ?_⟩⟩
  · have hd : s.sp.val ≠ Config.stackMaxDepth := Nat.ne_of_lt hroom
    have hslot (k : Fin 16) : (s.pushReturn.setPc (immAddr nnn)).slot k = if k = s.sp then s.pc else s.slot k :=
      s.slot_pushReturn k
    exact ⟨_, execCall_room nnn hd, (hslot s.sp).trans (if_pos rfl), State.pushReturn_sp_val hd, toNat_immAddr nnn,
      fun k hk => (hslot k).trans (if_neg hk), s.pushReturn_setPc_kept _⟩
  · exact ⟨_, execCall_full nnn hfull, rfl, rfl, s.takeFault_kept _⟩

/-- Settles O29, one clause per branch of the handler. -/
theorem returnPopsTheReturnAddress : Obligations.ReturnPopsTheReturnAddress := by
  refine ⟨fun w => decodeWord_retRow, fun pad s => ⟨fun hheld => ?_, fun hempty => ?_⟩⟩
  · have hd : s.sp.val ≠ 0 := Nat.ne_of_gt hheld
    have hsp := State.popReturn_sp_val hd
    exact ⟨_, execRet_held hd, by omega, rfl, s.popReturn_kept⟩
  · exact ⟨_, execRet_empty hempty, rfl, rfl, s.takeFault_kept _⟩

/-- Settles O31, from what the CALL pushes (O28) and what the RET pops (O29): the RET reads the slot the CALL wrote. -/
theorem callThenReturnComesBack : Obligations.CallThenReturnComesBack := by
  intro nnn pad s t u hroom hcall hsp hslot
  obtain ⟨t', hcall', hpushed, hup, -⟩ := (callPushesTheReturnAddress.2 nnn s).1 hroom
  obtain rfl : t = t' := Host.Outcome.next.inj (hcall.symm.trans hcall')
  rw [← hsp] at hup
  obtain ⟨v, hret, hdown, hpopped, -⟩ := (returnPopsTheReturnAddress.2 pad u).1 (by omega)
  have hdepth : v.sp = s.sp := Fin.ext (by omega)
  refine ⟨v, hret, ?_, hdepth⟩
  rw [hpopped, hdepth, hslot, hpushed]

/-- Settles O27: the handler is one write of `PC`. -/
theorem jumpSetsTheProgramCounter : Obligations.JumpSetsTheProgramCounter :=
  ⟨fun _ h => decodeWord_class1 (fieldOp_of_classRow h), fun nnn s =>
    ⟨_, rfl, toNat_immAddr nnn, s.setPc_kept _⟩⟩

/-- Settles O30: the widened operands are added without a wrap. -/
theorem jumpWithOffsetAddsRegisterZero : Obligations.JumpWithOffsetAddsRegisterZero := by
  refine ⟨fun w h => decodeWord_classB (fieldOp_of_classRow h), fun nnn s => ?_⟩
  have hsum := toNat_immAddr_add_zext16 nnn (s.reg 0)
  have hbound : (immAddr nnn + zext16 (s.reg 0)).toNat ≤ 0x10FE := by omega
  exact ⟨_, rfl, hsum, hbound, s.setPc_kept _⟩

end Sys2Proof.Machine
end

section
/-!
SUPPORT. Facts about decoding, the taken skip and the key named by a register that the statements on conditional skips
(spec/42_conditional_skip.md) share.
-/

namespace Sys2Proof

/-! ### The decoder on the rows of the skips (R103) -/

theorem decodeWord_class3 {w : Word} (hop : fieldOp w = 0x3#4) : decodeWord w = .seImm (fieldX w) (fieldKK w) := by
  simp [decodeWord, hop]

theorem decodeWord_class4 {w : Word} (hop : fieldOp w = 0x4#4) : decodeWord w = .sneImm (fieldX w) (fieldKK w) := by
  simp [decodeWord, hop]

theorem decodeWord_class5 {w : Word} (hop : fieldOp w = 0x5#4) :
    decodeWord w = .seReg (fieldX w) (fieldY w) (fieldN w) := by
  simp [decodeWord, hop]

theorem decodeWord_class9 {w : Word} (hop : fieldOp w = 0x9#4) :
    decodeWord w = .sneReg (fieldX w) (fieldY w) (fieldN w) := by
  simp [decodeWord, hop]

theorem decodeWord_skpRow {w : Word} (h : w &&& 0xF00F#16 = 0xE00E#16) :
    decodeWord w = .skp (fieldX w) (fieldPadY w) := by
  obtain ⟨hop, hn⟩ := fields_of_nibbleRow h
  rw [decodeWord_classE hop, decodeClassE_eq, hn]
  rfl

theorem decodeWord_sknpRow {w : Word} (h : w &&& 0xF00F#16 = 0xE001#16) :
    decodeWord w = .sknp (fieldX w) (fieldPadY w) := by
  obtain ⟨hop, hn⟩ := fields_of_nibbleRow h
  rw [decodeWord_classE hop, decodeClassE_eq, hn]
  rfl

end Sys2Proof

namespace Sys2Proof.Machine

/-! ### Skips -/

section
variable {i : Instr} {s : State} {taken : Bool} {p : Prop} [Decidable p]

/-- A handler that skips when `p` holds: its whole effect. -/
theorem exec_skips_when (hexec : exec i s = .next (s.skipIf taken)) (htaken : taken = true ↔ p) :
    ∃ t, exec i s = .next t ∧ t.pc = (if p then s.pc + 2 else s.pc) ∧ KeptBut [.pc] s t := by
  have hpc : (s.skipIf taken).pc = if p then s.pc + 2 else s.pc := by simp only [State.skipIf_pc, htaken]
  exact ⟨_, hexec, hpc, s.skipIf_kept taken⟩

/-- A handler that skips unless `p` holds: its whole effect. -/
theorem exec_skips_unless (hexec : exec i s = .next (s.skipIf taken)) (htaken : taken = true ↔ ¬p) :
    ∃ t, exec i s = .next t ∧ t.pc = (if p then s.pc else s.pc + 2) ∧ KeptBut [.pc] s t := by
  simpa only [ite_not] using exec_skips_when hexec htaken

end

/-! ### Keys -/

/-- The key a register names is its value modulo 16 (D13). -/
theorem lowNibble_eq_of_val {b : Byte} {k : Fin 16} (h : k.val = b.toNat % 16) : lowNibble b = k := by
  apply Fin.ext
  rw [h]
  exact BitVec.extractLsb'_toNat 0 4 b

end Sys2Proof.Machine
end

section
/-!
The statements of the family `42_conditional_skip.md`, settled.
-/

namespace Sys2Proof.Machine

/-- Settles O32: each handler is a skip on its comparison. -/
theorem compareSkipsAddTwoOnMatch : Obligations.CompareSkipsAddTwoOnMatch := by
  refine ⟨⟨?_, ?_, ?_, ?_⟩, fun x y kk pad s => ⟨?_, ?_, ?_, ?_⟩⟩
  · exact fun w h => decodeWord_class3 (fieldOp_of_classRow h)
  · exact fun w h => decodeWord_class4 (fieldOp_of_classRow h)
  · exact fun w h => decodeWord_class5 (fieldOp_of_classRow h)
  · exact fun w h => decodeWord_class9 (fieldOp_of_classRow h)
  · exact exec_skips_when rfl beq_iff_eq
  · exact exec_skips_unless rfl bne_iff_ne
  · exact exec_skips_when rfl beq_iff_eq
  · exact exec_skips_unless rfl bne_iff_ne

/-- Settles O33: each handler is a skip on the key that the low nibble of the register names. -/
theorem keySkipsTestTheKeyNamedByTheRegister : Obligations.KeySkipsTestTheKeyNamedByTheRegister := by
  refine ⟨⟨fun w => decodeWord_skpRow, fun w => decodeWord_sknpRow⟩, fun x k pad s hk => ?_⟩
  obtain rfl := lowNibble_eq_of_val hk
  exact ⟨exec_skips_when rfl Iff.rfl, exec_skips_unless rfl Bool.not_iff_not⟩

end Sys2Proof.Machine
end

section
/-!
SUPPORT. Facts about decoding, register writes, flags and byte arithmetic that the statements on loads, logic,
arithmetic and shifts (spec/43_alu.md) share.
-/

namespace Sys2Proof

/-! ### Rows of the layouts `op x kk` and `op x y n` (R92, R103) -/

variable {w : Word} {i : Instr} {m : Nat}

/-- A word is decoded to the well-formed instruction whose word it is. -/
theorem decodeWord_of_encode (hi : i.wellFormed = true) (hw : encode i = w) : decodeWord w = i :=
  hw ▸ decodeWord_encode hi

/-- A word in a row with the mask F000 decodes to the row's instruction of layout `op x kk` with the word's fields. -/
theorem decodeWord_of_xkkRow (h : w &&& 0xF000#16 = BitVec.ofNat 16 m) (hi : i.wellFormed = true)
    (henc : encode i = packXKK (m / 0x1000) (fieldX w) (fieldKK w)) : decodeWord w = i :=
  decodeWord_of_encode hi (henc.trans (packXKK_fields (fieldOp_of_classRow h) rfl))

/-- A word in a row with the mask F00F decodes to the row's instruction of layout `op x y n` with the word's fields. -/
theorem decodeWord_of_xynRow (h : w &&& 0xF00F#16 = BitVec.ofNat 16 m) (hi : i.wellFormed = true)
    (henc : encode i = packXYN (m / 0x1000) (fieldX w) (fieldY w) (m % 16)) : decodeWord w = i := by
  obtain ⟨hop, hn⟩ := fields_of_nibbleRow h
  have hkey : (fieldN w).toNat = m % 16 := congrArg BitVec.toNat hn
  exact decodeWord_of_encode hi (henc.trans (packXYN_fields hop hkey))

end Sys2Proof

namespace Sys2Proof.Machine

/-! ### Register writes -/

theorem State.setReg_regsKept (s : State) (x : RegIdx) (b : Byte) : RegsKeptBut [x] s (s.setReg x b) :=
  fun _ hr => s.reg_setReg_other b (List.ne_of_not_mem_cons hr)

theorem State.setReg_kept (s : State) (x : RegIdx) (b : Byte) : KeptBut [.regs] s (s.setReg x b) := by
  intro p hp
  have hrefl := PartKept.refl s p
  cases p
  case regs => simp at hp
  all_goals exact hrefl

section
variable {i : Instr} {s : State} {x : RegIdx} {f b : Byte} {P Q : Byte → Prop}

/-- A handler that writes one register and no flag: its whole effect, where `P` says what the result is. -/
theorem exec_writes (hexec : exec i s = .next (s.setReg x b)) (hb : P b) :
    ∃ t, exec i s = .next t ∧ P (t.reg x) ∧ RegsKeptBut [x] s t ∧ KeptBut [.regs] s t :=
  ⟨_, hexec, (s.reg_setReg_same x b).symm ▸ hb, s.setReg_regsKept x b, s.setReg_kept x b⟩

/-- A handler that writes a flag and then a result: its whole effect, where `P` says what the result is and `Q` what the
flag is. The result is the one that stays in `VF` (D12). -/
theorem exec_writes_flagged (hexec : exec i s = .next (s.setFlagged x f b)) (hb : P b) (hf : Q f) :
    ∃ t, exec i s = .next t ∧ P (t.reg x) ∧ (x ≠ 15 → Q (t.reg 15)) ∧ RegsKeptBut [x, 15] s t ∧
      KeptBut [.regs] s t := by
  obtain ⟨hresult, hflag, hregs, hkept⟩ := s.setFlagged_spec x f b
  exact ⟨_, hexec, hresult.symm ▸ hb, fun hx => (hflag hx).symm ▸ hf, hregs, hkept⟩

end

/-! ### Flags (R171) -/

theorem flagByte_decide (p : Prop) [Decidable p] : flagByte (decide p) = if p then 1 else 0 := by
  simp only [flagByte, decide_eq_true_eq]

theorem toNat_flagByte (b : Bool) : (flagByte b).toNat = b.toNat := by
  cases b <;> rfl

theorem toNat_bit0Flag (a : Byte) : (bit0Flag a).toNat = a.toNat % 2 := by
  have hbit : (a.toNat.testBit 0).toNat = a.toNat / 2 ^ 0 % 2 := Nat.toNat_testBit _ _
  rw [bit0Flag, toNat_flagByte, BitVec.getLsbD, hbit, pow_zero, Nat.div_one]

/-- Bit 7 is the top bit of a byte, so it is all that is left above it. -/
theorem toNat_bit7Flag (a : Byte) : (bit7Flag a).toNat = a.toNat / 128 := by
  have hbit : (a.toNat.testBit 7).toNat = a.toNat / 2 ^ 7 % 2 := Nat.toNat_testBit _ _
  rw [bit7Flag, toNat_flagByte, BitVec.getLsbD, hbit]
  omega

/-! ### Bytes as numbers -/

theorem toNat_byte_sub (a b : Byte) : (a - b).toNat = (256 + a.toNat - b.toNat) % 256 := by
  rw [BitVec.toNat_sub]
  omega

theorem toNat_byte_ushiftRight_one (a : Byte) : (a >>> 1).toNat = a.toNat / 2 := by
  rw [BitVec.toNat_ushiftRight, Nat.shiftRight_one]

theorem toNat_byte_shiftLeft_one (a : Byte) : (a <<< 1).toNat = a.toNat * 2 % 256 := by
  rw [BitVec.toNat_shiftLeft, Nat.shiftLeft_eq, pow_one]

end Sys2Proof.Machine
end

section
/-!
The statements of the family `43_alu.md`, settled.
-/

namespace Sys2Proof.Machine

/-- Settles O36: the handler is a flagged write of the sum and its carry. -/
theorem addWritesCarryThenSum : Obligations.AddWritesCarryThenSum := by
  refine ⟨fun _ h => decodeWord_of_xynRow h rfl rfl, fun x y s => ?_⟩
  exact exec_writes_flagged (P := (·.toNat = _)) (Q := (· = _)) rfl (BitVec.toNat_add _ _) (flagByte_decide _)

/-- Settles O37: each handler is a flagged write of the difference, the operands changing places. -/
theorem subtractWritesNoBorrowThenDifference : Obligations.SubtractWritesNoBorrowThenDifference := by
  refine ⟨⟨fun _ h => decodeWord_of_xynRow h rfl rfl, fun _ h => decodeWord_of_xynRow h rfl rfl⟩,
    fun x y s => ⟨?_, ?_⟩⟩
  · exact exec_writes_flagged (P := (·.toNat = _)) (Q := (· = _)) rfl (toNat_byte_sub _ _) (flagByte_decide _)
  · exact exec_writes_flagged (P := (·.toNat = _)) (Q := (· = _)) rfl (toNat_byte_sub _ _) (flagByte_decide _)

/-- Settles O38: each handler is a flagged write of the shifted byte and the bit it lost. -/
theorem shiftsWriteTheBitShiftedOut : Obligations.ShiftsWriteTheBitShiftedOut := by
  refine ⟨⟨fun _ h => decodeWord_of_xynRow h rfl rfl, fun _ h => decodeWord_of_xynRow h rfl rfl⟩,
    fun x pad s => ⟨?_, ?_⟩⟩
  · exact exec_writes_flagged (P := (·.toNat = _)) (Q := (·.toNat = _)) rfl (toNat_byte_ushiftRight_one _)
      (toNat_bit0Flag _)
  · exact exec_writes_flagged (P := (·.toNat = _)) (Q := (·.toNat = _)) rfl (toNat_byte_shiftLeft_one _)
      (toNat_bit7Flag _)

/-- Settles O34: each handler is one register write. -/
theorem registerLoadsAndImmediateAdd : Obligations.RegisterLoadsAndImmediateAdd := by
  refine ⟨⟨?_, ?_, ?_⟩, fun x y kk s => ⟨?_, ?_, ?_⟩⟩
  · exact fun _ h => decodeWord_of_xkkRow h rfl rfl
  · exact fun _ h => decodeWord_of_xkkRow h rfl rfl
  · exact fun _ h => decodeWord_of_xynRow h rfl rfl
  · exact exec_writes (P := (· = kk)) rfl rfl
  · exact exec_writes (P := (·.toNat = _)) rfl (BitVec.toNat_add _ _)
  · exact exec_writes (P := (· = s.reg y)) rfl rfl

/-- Settles O35: each handler is one register write, whose bits are the library's for the operation. -/
theorem logicOperationsWriteNoFlag : Obligations.LogicOperationsWriteNoFlag := by
  refine ⟨⟨?_, ?_, ?_⟩, fun x y s => ⟨?_, ?_, ?_⟩⟩
  · exact fun _ h => decodeWord_of_xynRow h rfl rfl
  · exact fun _ h => decodeWord_of_xynRow h rfl rfl
  · exact fun _ h => decodeWord_of_xynRow h rfl rfl
  · exact exec_writes (P := fun b => ∀ k, b.getLsbD k = ((s.reg x).getLsbD k || (s.reg y).getLsbD k)) rfl
      fun _ => BitVec.getLsbD_or
  · exact exec_writes (P := fun b => ∀ k, b.getLsbD k = ((s.reg x).getLsbD k && (s.reg y).getLsbD k)) rfl
      fun _ => BitVec.getLsbD_and
  · exact exec_writes (P := fun b => ∀ k, b.getLsbD k = ((s.reg x).getLsbD k ^^ (s.reg y).getLsbD k)) rfl
      fun _ => BitVec.getLsbD_xor

end Sys2Proof.Machine
end

section
/-!
SUPPORT. Facts about decoding, writes of `I`, the glyph address and the random draw that the statements on the index
register and the random byte (spec/44_index_random.md) share.
-/

namespace Sys2Proof

/-! ### The decoder on the rows of the index register (R103) -/

theorem decodeWord_classA {w : Word} (hop : fieldOp w = 0xA#4) : decodeWord w = .ldI (fieldNNN w) := by
  simp [decodeWord, hop]

/-- A word in a row with the mask F0FF decodes to the row's instruction with the word's register. -/
theorem decodeWord_of_byteRow {w : Word} {i : Instr} {m : Nat} (h : w &&& 0xF0FF#16 = BitVec.ofNat 16 m)
    (hi : i.wellFormed = true) (henc : encode i = packXKK (m / 0x1000) (fieldX w) (BitVec.ofNat 8 m)) :
    decodeWord w = i := by
  obtain ⟨hop, hkk⟩ := fields_of_byteRow h
  exact decodeWord_of_encode hi (henc.trans (packXKK_fields hop hkk))

end Sys2Proof

namespace Sys2Proof.Machine

/-! ### Operands (R93, R182) -/

theorem val_lowNibble (b : Byte) : (lowNibble b).val = b.toNat % 16 :=
  congrArg Fin.val (lowNibble_eq_of_val (k := Fin.ofNat 16 b.toNat) rfl)

/-- Every glyph lies below 0x200, so its address does not wrap (R61). -/
theorem glyphOffset_lt (base : Fin 433) (d : Fin 16) : base.val + Config.glyphStride * d.val < 0x200 := by
  have hbase := base.isLt
  have hd := d.isLt
  simp only [Config.glyphStride]
  omega

theorem toNat_glyphAddr (base : Fin 433) (d : Fin 16) :
    (glyphAddr base d).toNat = base.val + Config.glyphStride * d.val :=
  (BitVec.toNat_ofNat _ _).trans (Nat.mod_eq_of_lt ((glyphOffset_lt base d).trans (by decide)))

/-- A masked byte has no bit outside its mask (R183). -/
theorem and_mask_and_not_mask (b kk : Byte) : b &&& kk &&& ~~~kk = 0 := by
  rw [BitVec.and_assoc, BitVec.and_not_self]
  exact BitVec.and_zero

/-! ### Frames -/

theorem State.setI_kept (s : State) (a : Word) : KeptBut [.i] s (s.setI a) := by
  intro p hp
  have hrefl := PartKept.refl s p
  cases p
  case i => simp at hp
  all_goals exact hrefl

/-- A draw whose byte goes to a register. -/
theorem State.consumeDraw_setReg_kept (s : State) (x : RegIdx) (b : Byte) :
    KeptBut [.regs, .draws] s (s.consumeDraw.setReg x b) := by
  intro p hp
  have hrefl := PartKept.refl s p
  cases p
  case regs | draws => simp at hp
  all_goals exact hrefl

end Sys2Proof.Machine
end

section
/-!
The statements of the family `44_index_random.md`, settled.
-/

namespace Sys2Proof.Machine

/-- Settles O39: the handler is one write of `I`, of the widened address. -/
theorem indexLoadsTheAddress : Obligations.IndexLoadsTheAddress :=
  ⟨fun _ h => decodeWord_classA (fieldOp_of_classRow h), fun nnn s =>
    ⟨_, rfl, toNat_immAddr nnn, s.setI_kept _⟩⟩

/-- Settles O40: the handler is one write of `I`, of a sum of words, one of them a widened byte. -/
theorem indexAddSetsNoFlag : Obligations.IndexAddSetsNoFlag := by
  refine ⟨fun _ h => decodeWord_of_byteRow h rfl rfl, fun x s => ?_⟩
  have hsum : (s.i + zext16 (s.reg x)).toNat = (s.i.toNat + (s.reg x).toNat) % 65536 := by
    rw [BitVec.toNat_add, toNat_zext16]
  exact ⟨_, rfl, hsum, s.setI_kept _⟩

/-- Settles O41: the handler is one write of `I`, of a glyph address, which the bound on the glyph base keeps below
0x200. -/
theorem glyphAddressOfTheLowNibble : Obligations.GlyphAddressOfTheLowNibble := by
  refine ⟨fun _ h => decodeWord_of_byteRow h rfl rfl, fun x s => ?_⟩
  have haddr := toNat_glyphAddr Config.glyphBase (lowNibble (s.reg x))
  have hbound := haddr.trans_lt (glyphOffset_lt _ _)
  rw [val_lowNibble] at haddr
  exact ⟨_, rfl, haddr, hbound, s.setI_kept _⟩

/-- Settles O42: the handler consumes a draw and writes its masked byte to one register. -/
theorem randomByteIsMasked : Obligations.RandomByteIsMasked := by
  refine ⟨fun _ h => decodeWord_of_xkkRow h rfl rfl, fun x kk s => ?_⟩
  have hreg := s.consumeDraw.reg_setReg_same x (s.nextDraw &&& kk)
  have hmask := and_mask_and_not_mask s.nextDraw kk
  rw [← hreg] at hmask
  exact ⟨_, rfl, hreg, hmask, rfl, s.consumeDraw.setReg_regsKept x _, s.consumeDraw_setReg_kept x _⟩

end Sys2Proof.Machine
end

section
/-!
SUPPORT. Facts about decoding, frames and the whole effect of a draw that the statements on the display
(spec/45_display.md) share.
-/

namespace Sys2Proof

/-! ### The decoder on the rows of the display (R103) -/

theorem decodeWord_clsRow {w : Word} (h : w &&& 0xF00F#16 = 0x0000#16) : decodeWord w = .cls (fieldPadXY w) := by
  obtain ⟨hop, hn⟩ := fields_of_nibbleRow h
  rw [decodeWord_class0 hop, decodeClass0_eq, hn]
  rfl

theorem decodeWord_classD {w : Word} (hop : fieldOp w = 0xD#4) :
    decodeWord w = .drw (fieldX w) (fieldY w) (fieldN w).toFin := by
  simp [decodeWord, hop]

end Sys2Proof

namespace Sys2Proof.Machine

/-! ### Frames -/

theorem State.setFb_kept (s : State) (fb : Framebuffer) : KeptBut [.fb] s (s.setFb fb) := by
  intro p hp
  have hrefl := PartKept.refl s p
  cases p
  case fb => simp at hp
  all_goals exact hrefl

/-- A frame may list more parts than it has to. -/
theorem KeptBut.mono {ps qs : List Part} {s t : State} (h : KeptBut ps s t) (hsub : ps ⊆ qs) : KeptBut qs s t :=
  fun p hp => h p fun hmem => hp (hsub hmem)

/-! ### Which pixels a sprite covers (R192) -/

/-- A sprite lies in memory at `I`: nothing else of the state decides what it covers. -/
theorem spriteCovers_congr {s t : State} (hmem : ∀ a, t.read a = s.read a) (hi : t.i = s.i) (vx vy : Byte) (n : Nat)
    (px : Fin Config.fbWidth) (py : Fin Config.fbHeight) :
    SpriteCovers t vx vy n px py ↔ SpriteCovers s vx vy n px py := by
  simp only [SpriteCovers, hmem, hi]

/-- The columns of a sprite row number the bits of its byte from the left, so they miss no 1 bit. -/
theorem byte_ne_zero_iff (b : Byte) : b ≠ 0 ↔ ∃ c < 8, b.getLsbD (7 - c) = true := by
  constructor
  · intro hb
    by_contra! hall
    refine hb (BitVec.eq_of_getLsbD_eq fun k hk => ?_)
    have hbit := hall (7 - k) (by omega)
    rw [Nat.sub_sub_self (by omega)] at hbit
    simpa using hbit
  · rintro ⟨c, -, hbit⟩ rfl
    simp at hbit

/-- On a torus no part of a sprite is off the screen: some pixel is covered exactly when some byte is not 0. -/
theorem exists_spriteCovers_iff (s : State) (vx vy : Byte) (n : Nat) :
    (∃ px py, SpriteCovers s vx vy n px py) ↔ ∃ r < n, s.read (s.dataAddr r) ≠ 0 := by
  constructor
  · rintro ⟨px, py, r, hr, c, hc, hbit, -⟩
    exact ⟨r, hr, (byte_ne_zero_iff _).2 ⟨c, hc, hbit⟩⟩
  · rintro ⟨r, hr, hb⟩
    obtain ⟨c, hc, hbit⟩ := (byte_ne_zero_iff _).1 hb
    exact ⟨spriteColumn vx c, spriteRow vy r, r, hr, c, hc, hbit, rfl, rfl⟩

/-! ### The flag byte (R22) -/

theorem flagByte_eq_one_iff (b : Bool) : flagByte b = 1 ↔ b = true := by
  cases b <;> decide

theorem flagByte_eq_zero_iff (b : Bool) : flagByte b = 0 ↔ b = false := by
  cases b <;> decide

/-! ### The whole effect of a draw (R192) -/

section draw

variable {x y : RegIdx} {n : Fin 16} {s t : State} {px : Fin Config.fbWidth} {py : Fin Config.fbHeight}

theorem exec_drw_pixel_covered (h : exec (.drw x y n) s = .next t)
    (hc : SpriteCovers s (s.reg x) (s.reg y) n px py) : t.pixel px py = !s.pixel px py := by
  cases h
  exact ((s.blit_spec _ _ n).1 px py).trans (if_pos (mem_spritePixels.2 hc))

theorem exec_drw_pixel_uncovered (h : exec (.drw x y n) s = .next t)
    (hc : ¬ SpriteCovers s (s.reg x) (s.reg y) n px py) : t.pixel px py = s.pixel px py := by
  cases h
  exact ((s.blit_spec _ _ n).1 px py).trans (if_neg fun hmem => hc (mem_spritePixels.1 hmem))

/-- A draw marks a collision exactly when a covered pixel was lit. -/
theorem State.blit_hit_iff (s : State) (vx vy : Byte) (n : Fin 16) :
    (s.blit vx vy n).hit = true ↔ ∃ px py, SpriteCovers s vx vy n px py ∧ s.pixel px py = true := by
  rw [(s.blit_spec vx vy n).2, Prod.exists]
  simp only [mem_spritePixels]

theorem exec_drw_flag_eq_one_iff (h : exec (.drw x y n) s = .next t) :
    t.reg 15 = 1 ↔ ∃ px py, SpriteCovers s (s.reg x) (s.reg y) n px py ∧ s.pixel px py = true := by
  cases h
  rw [← State.blit_hit_iff, ← flagByte_eq_one_iff]
  exact Eq.congr_left (s.reg_setReg_same flagIdx _)

theorem exec_drw_flag_eq_zero_iff (h : exec (.drw x y n) s = .next t) :
    t.reg 15 = 0 ↔ ∀ px py, SpriteCovers s (s.reg x) (s.reg y) n px py → s.pixel px py = false := by
  have hunlit := (s.blit_hit_iff (s.reg x) (s.reg y) n).not
  push Not at hunlit
  simp only [Bool.not_eq_true] at hunlit
  cases h
  rw [← hunlit, ← flagByte_eq_zero_iff]
  exact Eq.congr_left (s.reg_setReg_same flagIdx _)

/-- A draw writes no register but the flag. -/
theorem exec_drw_regsKept (h : exec (.drw x y n) s = .next t) : RegsKeptBut [15] s t := by
  cases h
  exact s.setReg_regsKept flagIdx _

/-- A draw writes only registers and the screen. -/
theorem exec_drw_kept (h : exec (.drw x y n) s = .next t) : KeptBut [.regs, .fb] s t := by
  cases h
  exact ((s.setReg_kept flagIdx _).mono (by simp)).trans ((State.setFb_kept _ _).mono (by simp))

end draw

end Sys2Proof.Machine
end

section
/-!
The statements of the family `45_display.md`, settled.
-/

namespace Sys2Proof.Machine

/-- Settles O43: the handler replaces the screen by the blank one and writes nothing else. -/
theorem clearScreenTurnsAllPixelsOff : Obligations.ClearScreenTurnsAllPixelsOff :=
  ⟨fun _ h => decodeWord_clsRow h, fun _ s =>
    ⟨_, rfl, fun x y => getPixel_blankScreen x y, s.setFb_kept blankScreen⟩⟩

/-- Settles O44, clause by clause from the whole effect of a draw. -/
theorem drawFlipsThePixelsUnderTheSprite : Obligations.DrawFlipsThePixelsUnderTheSprite := by
  refine ⟨fun _ h => decodeWord_classD (fieldOp_of_classRow h), fun x y n s => ?_⟩
  obtain ⟨t, h⟩ := exec_next (.drw x y n) s
  exact ⟨t, h, fun _ _ => exec_drw_pixel_covered h, fun _ _ => exec_drw_pixel_uncovered h,
    (exec_drw_flag_eq_one_iff h).2, (exec_drw_flag_eq_zero_iff h).2, exec_drw_regsKept h, exec_drw_kept h⟩

/-- Settles O45: the first draw keeps memory and `I`, so both draws cover the same pixels, and a pixel flipped twice is
as before. If the first draw found every covered pixel off, the second finds every one on, and it finds one exactly when
the sprite has a 1 bit. -/
theorem drawingTwiceRestoresTheScreen : Obligations.DrawingTwiceRestoresTheScreen := by
  intro x y n s t hst hx hy
  obtain ⟨u, htu⟩ := exec_next (.drw x y n) t
  have hkept := exec_drw_kept hst
  have hcovers (px : Fin Config.fbWidth) (py : Fin Config.fbHeight) :
      SpriteCovers t (t.reg x) (t.reg y) n px py ↔ SpriteCovers s (s.reg x) (s.reg y) n px py := by
    rw [hx, hy]
    exact spriteCovers_congr (hkept .mem (by decide)) (hkept .i (by decide)) _ _ _ px py
  refine ⟨u, htu, fun px py => ?_, fun hflag => ?_⟩
  · by_cases hc : SpriteCovers s (s.reg x) (s.reg y) n px py
    · rw [exec_drw_pixel_covered htu ((hcovers px py).2 hc), exec_drw_pixel_covered hst hc, Bool.not_not]
    · rw [exec_drw_pixel_uncovered htu (mt (hcovers px py).1 hc), exec_drw_pixel_uncovered hst hc]
  · have hlit (px : Fin Config.fbWidth) (py : Fin Config.fbHeight)
        (hc : SpriteCovers s (s.reg x) (s.reg y) n px py) : t.pixel px py = true := by
      rw [exec_drw_pixel_covered hst hc, (exec_drw_flag_eq_zero_iff hst).1 hflag px py hc, Bool.not_false]
    rw [exec_drw_flag_eq_one_iff htu, ← exists_spriteCovers_iff s (s.reg x) (s.reg y)]
    simp only [hcovers]
    exact exists₂_congr fun px py => and_iff_left_of_imp (hlit px py)

end Sys2Proof.Machine
end

section
/-!
SUPPORT. Facts about a whole Step as its handler between a fetch and a tick, and about the lowest pressed key, that the
statements on the timers and the key wait (spec/46_timers_keys.md) share.
-/

namespace Sys2Proof.Machine

/-! ### Frames -/

theorem State.setDt_kept (s : State) (b : Byte) : KeptBut [.dt] s (s.setDt b) := by
  intro p hp
  have hrefl := PartKept.refl s p
  cases p
  case dt => simp at hp
  all_goals exact hrefl

/-- A tick is a write of each timer. -/
theorem State.tick_kept (s : State) : KeptBut [.dt, .st] s s.tick :=
  ((s.setDt_kept (tickTimer s.dt)).mono (by simp)).trans
    (((s.setDt (tickTimer s.dt)).setSt_kept (tickTimer s.st)).mono (by simp))

/-- A fetch is a write of `PC` and one of `IR`. -/
theorem State.fetched_kept (s : State) : KeptBut [.pc, .ir] s s.fetched :=
  ((s.setPc_kept (s.pc + 2)).mono (by simp)).trans (((s.setPc (s.pc + 2)).withIr_kept s.fetchWord).mono (by simp))

/-! ### The read of the delay timer (R200) -/

/-- LD Vx, DT writes one register, from the timer as the handler finds it. -/
theorem exec_ldVxDt_writes (x : RegIdx) (s : State) :
    ∃ t, exec (.ldVxDt x) s = .next t ∧ t.reg x = s.dt ∧ RegsKeptBut [x] s t ∧ KeptBut [.regs] s t :=
  exec_writes (P := (· = s.dt)) rfl rfl

/-! ### From a handler's effect to the Step's -/

/-- A handler that keeps the latch clear makes the Step the handler's state, ticked; the Step keeps what the handler
keeps, but for `PC`, `IR` and the timers. -/
theorem step_of_exec {s u : State} {i : Instr} {parts : List Part} (hs : s.ready) (hi : decodeWord s.fetchWord = i)
    (hexec : exec i s.fetched = .next u) (hkept : KeptBut parts s.fetched u) (hlatch : Part.fault ∉ parts) :
    step s = .next u.tick ∧ KeptBut (parts ++ [.pc, .ir, .dt, .st]) s u.tick := by
  have hfault : u.fault = s.fault := hkept .fault hlatch
  have hfetch := s.fetched_kept.mono (qs := parts ++ [.pc, .ir, .dt, .st]) (by simp)
  have htick := u.tick_kept.mono (qs := parts ++ [.pc, .ir, .dt, .st]) (by simp)
  refine ⟨?_, (hfetch.trans (hkept.mono (by simp))).trans htick⟩
  rw [step_ready hs, hi, hexec, finishStep_ready (hfault.trans hs)]

/-! ### Keys -/

/-- A pressed key below which none is pressed is the one reported (D14). -/
theorem State.lowestKey_eq_some {s : State} {k : Fin 16} (hk : s.key k = true) (hlow : ∀ j < k, s.key j = false) :
    s.lowestKey = some k := by
  cases hfound : s.lowestKey with
  | none => simp [State.lowestKey_none.1 hfound k] at hk
  | some j =>
    obtain ⟨hj, hbelow⟩ := State.lowestKey_some hfound
    have hjk : ¬ j < k := fun hlt => by simp [hlow j hlt] at hj
    have hkj : ¬ k < j := fun hlt => by simp [hbelow k hlt] at hk
    rw [le_antisymm (not_lt.1 hkj) (not_lt.1 hjk)]

end Sys2Proof.Machine
end

section
/-!
The statements of the family `46_timers_keys.md`, settled.
-/

namespace Sys2Proof.Machine

/-- Settles O46: the handler is one register write, which keeps `DT`, so the tick lowers the value that was read. -/
theorem delayTimerIsReadBeforeTheTick : Obligations.DelayTimerIsReadBeforeTheTick := by
  refine ⟨fun _ h => decodeWord_of_byteRow h rfl rfl, exec_ldVxDt_writes, fun x s hs hi => ?_⟩
  obtain ⟨u, hexec, hreg, hregs, hkept⟩ := exec_ldVxDt_writes x s.fetched
  obtain ⟨hstep, hframe⟩ := step_of_exec hs hi hexec hkept (by decide)
  have hdt : u.dt = s.dt := hkept .dt (by decide)
  exact ⟨u.tick, hstep, hreg, hdt ▸ tickTimer_toNat u.dt, hregs, hframe⟩

/-- Settles O47: each handler is one write of its timer, and the tick lowers what was written. -/
theorem timerWritesAreTickedInTheSameStep : Obligations.TimerWritesAreTickedInTheSameStep := by
  refine ⟨⟨fun _ h => decodeWord_of_byteRow h rfl rfl, fun _ h => decodeWord_of_byteRow h rfl rfl⟩,
    fun x s => ⟨⟨_, rfl, rfl, s.setDt_kept _⟩, ⟨_, rfl, rfl, s.setSt_kept _⟩⟩,
    fun x s hs => ⟨fun hi => ?_, fun hi => ?_⟩⟩
  · obtain ⟨hstep, hframe⟩ := step_of_exec hs hi rfl (s.fetched.setDt_kept _) (by decide)
    exact ⟨_, hstep, tickTimer_toNat (s.reg x), hframe.mono (by simp)⟩
  · obtain ⟨hstep, hframe⟩ := step_of_exec hs hi rfl (s.fetched.setSt_kept _) (by decide)
    exact ⟨_, hstep, tickTimer_toNat (s.reg x), hframe.mono (by simp)⟩

/-- Settles O48, one clause per branch of the handler; in the waiting Step the handler takes back from `PC` the 2 that
the fetch added, so that `PC` is kept too. -/
theorem keyWaitStoresTheLowestKeyOrWaits : Obligations.KeyWaitStoresTheLowestKeyOrWaits := by
  refine ⟨fun _ h => decodeWord_of_byteRow h rfl rfl, fun x k s hk hlow => ?_, fun x s hnone => ?_,
    fun x s hs hi hnone => ?_⟩
  · have hbyte : (BitVec.ofNat 8 k.val).toNat = k.val := by
      rw [BitVec.toNat_ofNat, Nat.mod_eq_of_lt (k.isLt.trans (by decide))]
    exact exec_writes (P := (·.toNat = k.val)) (execLdVxK_pressed x (State.lowestKey_eq_some hk hlow)) hbyte
  · exact ⟨_, execLdVxK_waiting x (State.lowestKey_none.2 hnone), rfl, s.setPc_kept _⟩
  · have hexec := execLdVxK_waiting (s := s.fetched) x (State.lowestKey_none.2 hnone)
    obtain ⟨hstep, hframe⟩ := step_of_exec hs hi hexec (s.fetched.setPc_kept _) (by decide)
    have hpc : s.pc + 2 - 2 = s.pc := add_sub_cancel_right s.pc 2
    have hwait : KeptBut [.ir, .dt, .st] s (s.fetched.setPc (s.pc + 2 - 2)).tick := (hframe.of_cons hpc).of_cons hpc
    exact ⟨_, hstep, hpc, tickTimer_toNat s.dt, tickTimer_toNat s.st, hwait⟩

end Sys2Proof.Machine
end

section
/-!
SUPPORT. The frame of a write of bytes and of all registers, the digits LD B stores, and the register blocks stored and
loaded, that the statements on the memory instructions (spec/47_memory_ops.md) share.
-/

namespace Sys2Proof.Machine

/-! ### Frames -/

theorem State.writeBytes_memKept (s : State) (a : Nat) (bs : List Byte) :
    MemKeptBut a bs.length s (s.writeBytes a bs) :=
  memRead_memWriteBytes_other bs s.mem a

theorem State.writeBytes_kept (s : State) (a : Nat) (bs : List Byte) : KeptBut [.mem] s (s.writeBytes a bs) := by
  intro p hp
  have hrefl := PartKept.refl s p
  cases p
  case mem => simp at hp
  all_goals exact hrefl

theorem State.setRegs_kept (s : State) (v : Vector Byte 16) : KeptBut [.regs] s (s.setRegs v) := by
  intro p hp
  have hrefl := PartKept.refl s p
  cases p
  case regs => simp at hp
  all_goals exact hrefl

/-! ### Stores of decimal digits (R210) -/

/-- Each digit fits in its byte, so it is stored as the number it is. -/
theorem map_toNat_bcdDigits (v : Byte) :
    (bcdDigits v).map BitVec.toNat = [v.toNat / 100, v.toNat / 10 % 10, v.toNat % 10] := by
  have hv := v.isLt
  have hbyte {n : Nat} (hn : n < 256) : (BitVec.ofNat 8 n).toNat = n := by
    rw [BitVec.toNat_ofNat, Nat.mod_eq_of_lt hn]
  rw [bcdDigits, List.map_cons, List.map_cons, List.map_singleton, hbyte (by omega), hbyte (by omega), hbyte (by omega)]

/-- What a store of the digits of `v` leaves where it wrote. -/
theorem State.toNat_read_storedDigits (s : State) (v : Byte) {k : Nat} (hk : k < 3) :
    ((s.writeBytes (s.dataAddr 0) (bcdDigits v)).read (s.dataAddr k)).toNat =
      [v.toNat / 100, v.toNat / 10 % 10, v.toNat % 10][k] := by
  have hread : (s.writeBytes (s.dataAddr 0) (bcdDigits v)).read (s.dataAddr 0 + k) = (bcdDigits v)[k] :=
    memRead_memWriteBytes_inside _ _ _ _ hk (by simp [bcdDigits])
  simp only [← map_toNat_bcdDigits v, List.getElem_map]
  exact congrArg BitVec.toNat hread

/-! ### Register blocks (R211, R212) -/

section
variable {x k : RegIdx} {s t : State}

/-- LD [I], Vx puts each register of the block in its cell. -/
theorem exec_ldMemVx_read (h : exec (.ldMemVx x) s = .next t) (hk : k ≤ x) : t.read (s.dataAddr k) = s.reg k := by
  cases h
  exact s.read_storedBlock hk

/-- LD [I], Vx writes memory alone. -/
theorem exec_ldMemVx_kept (h : exec (.ldMemVx x) s = .next t) : KeptBut [.mem] s t := by
  cases h
  exact s.writeBytes_kept _ _

/-- LD Vx, [I] gives each register of the block its cell. -/
theorem exec_ldVxMem_reg (h : exec (.ldVxMem x) s = .next t) (hk : k ≤ x) : t.reg k = s.read (s.dataAddr k) := by
  rw [execLdVxMem_eq h, State.reg_loadedBlock, if_pos hk, State.dataAddr]

/-- LD Vx, [I] keeps each register above the block. -/
theorem exec_ldVxMem_reg_above (h : exec (.ldVxMem x) s = .next t) (hk : x < k) : t.reg k = s.reg k := by
  rw [execLdVxMem_eq h, State.reg_loadedBlock, if_neg (not_le.2 hk)]

end

end Sys2Proof.Machine
end

section
/-!
The statements of the family `47_memory_ops.md`, settled.
-/

namespace Sys2Proof.Machine

/-- Settles O49: the handler is one write of three bytes, each a decimal digit. -/
theorem decimalDigitsAreStored : Obligations.DecimalDigitsAreStored := by
  refine ⟨fun _ h => decodeWord_of_byteRow h rfl rfl, fun x s => ?_⟩
  have hdigit {k : Nat} (hk : k < 3) := s.toNat_read_storedDigits (s.reg x) hk
  exact ⟨_, rfl, hdigit (k := 0) (by decide), hdigit (k := 1) (by decide), hdigit (k := 2) (by decide),
    s.writeBytes_memKept _ (bcdDigits (s.reg x)), s.writeBytes_kept _ _⟩

/-- Settles O50: the handler is one write of the `x + 1` bytes of the register block. -/
theorem registerBlockIsStored : Obligations.RegisterBlockIsStored := by
  refine ⟨fun _ h => decodeWord_of_byteRow h rfl rfl, fun x s => ?_⟩
  have hmem := s.writeBytes_memKept (s.dataAddr 0) (s.regBlock x)
  rw [State.length_regBlock] at hmem
  exact ⟨_, rfl, fun _ => exec_ldMemVx_read rfl, hmem, exec_ldMemVx_kept rfl⟩

/-- Settles O51: the handler is one write of the registers, of which those above `x` get the value they had. -/
theorem registerBlockIsLoaded : Obligations.RegisterBlockIsLoaded := by
  refine ⟨fun _ h => decodeWord_of_byteRow h rfl rfl, fun x s => ?_⟩
  exact ⟨_, rfl, fun _ => exec_ldVxMem_reg rfl, fun _ => exec_ldVxMem_reg_above rfl, s.setRegs_kept _⟩

/-- Settles O52: the store keeps `I`, so the load reads each register from the cell the store put it in. -/
theorem storeThenLoadRestoresTheRegisters : Obligations.StoreThenLoadRestoresTheRegisters := by
  intro x s t u hstore hi hmem
  obtain ⟨v, hload⟩ := exec_next (.ldVxMem x) u
  have his : u.i = s.i := hi.trans (exec_ldMemVx_kept hstore .i (by decide))
  have haddr (k : Nat) : u.dataAddr k = s.dataAddr k := congrArg (·.toNat + k) his
  refine ⟨v, hload, fun k hk => ?_⟩
  rw [exec_ldVxMem_reg hload hk, haddr, hmem, exec_ldMemVx_read hstore hk]

end Sys2Proof.Machine
end

section
/-!
SUPPORT. What the load port and a host action can do, said once, and the Step of a parked state, for the statements on
the host's side of the block (spec/60_exceptions.md, spec/70_reset_and_hazards.md).
-/

namespace Sys2Proof.Machine

/-! ### The load port (R225, R252) -/

/-- An image that fits is written from 0x200 on. -/
theorem State.loadImage_fits (s : State) {bytes : List Byte} (h : bytes.length ≤ Config.maxImage) :
    s.loadImage bytes = .next (s.writeBytes Config.progBase bytes) := if_pos h

/-- An image that does not fit is refused. -/
theorem State.loadImage_tooLarge (s : State) {bytes : List Byte} (h : Config.maxImage < bytes.length) :
    s.loadImage bytes = .refused .imageTooLarge := if_neg (not_le.2 h)

/-- All that a load that has a next state can do. -/
theorem State.loadImage_next {s t : State} {bytes : List Byte} (h : s.loadImage bytes = .next t) :
    bytes.length ≤ Config.maxImage ∧ t = s.writeBytes Config.progBase bytes := by
  by_cases hlen : bytes.length ≤ Config.maxImage
  · rw [s.loadImage_fits hlen] at h
    exact ⟨hlen, (Host.Outcome.next.inj h).symm⟩
  · rw [s.loadImage_tooLarge (not_le.1 hlen)] at h
    cases h

/-! ### Host actions (R237) -/

/-- A session that has come to a phase holds the state of the outcome it came from. -/
theorem inPhase_next {phase : Phase} {o : Host.Outcome State Fault Refusal} {d : Session}
    (h : inPhase phase o = .next d) : ∃ t, o = .next t ∧ d = { phase := phase, machine := t } := by
  cases o with
  | next t => exact ⟨t, rfl, (Host.Outcome.next.inj h).symm⟩
  | fault c => cases h
  | refused r => cases h

/-- A load that has a next session is the one load of a fresh session, of an image that fits. -/
theorem hostAct_load_next {bytes : List Byte} {c d : Session} (h : hostAct (.load bytes) c = .next d) :
    c.phase = .fresh ∧ bytes.length ≤ Config.maxImage ∧
      d = { phase := .loaded, machine := c.machine.writeBytes Config.progBase bytes } := by
  by_cases hc : c.phase = .fresh
  · rw [hostAct_load_fresh bytes hc] at h
    obtain ⟨t, ht, rfl⟩ := inPhase_next h
    obtain ⟨hlen, rfl⟩ := State.loadImage_next ht
    exact ⟨hc, hlen, rfl⟩
  · rw [hostAct_load_outOfTurn bytes hc] at h
    cases h

/-- All that a host action that has a next session can do. -/
theorem hostAct_cases {a : HostAction} {c d : Session} (h : hostAct a c = .next d) :
    (a = .reset ∧ d = { phase := .fresh, machine := { State.reset with draws := c.machine.draws } }) ∨
    (∃ bytes, a = .load bytes ∧ c.phase = .fresh ∧ bytes.length ≤ Config.maxImage ∧
      d = { phase := .loaded, machine := c.machine.writeBytes Config.progBase bytes }) ∨
    (∃ flags, a = .keys flags ∧ d = { c with machine := c.machine.setKeys flags }) ∨
    (∃ t, a = .step ∧ step c.machine = .next t ∧ d = { phase := .running, machine := t }) := by
  cases a with
  | reset => exact .inl ⟨rfl, (Host.Outcome.next.inj h).symm⟩
  | load bytes => exact .inr (.inl ⟨bytes, rfl, hostAct_load_next h⟩)
  | keys flags => exact .inr (.inr (.inl ⟨flags, rfl, (Host.Outcome.next.inj h).symm⟩))
  | step =>
    obtain ⟨t, ht, rfl⟩ := inPhase_next h
    exact .inr (.inr (.inr ⟨t, rfl, ht, rfl⟩))

/-! ### The parked state (R264) -/

/-- A tick changes nothing once both timers are 0. -/
theorem State.tick_of_timers_zero {s : State} (hdt : s.dt = 0) (hst : s.st = 0) : s.tick = s := by
  have hdtTick : tickTimer s.dt = s.dt := by rw [hdt]; rfl
  have hstTick : tickTimer s.st = s.st := by rw [hst]; rfl
  rw [State.tick, hdtTick, hstTick]

/-- The Step of a parked state loads `IR` and nothing else: the jump takes `PC` back, and the tick finds both timers
at 0. -/
theorem step_parked {s : State} (h : s.parked) : step s = .next { s with ir := s.fetchWord } := by
  obtain ⟨hs, ⟨nnn, hi, hpc⟩, hdt, hst⟩ := h
  obtain ⟨hstep, -⟩ := step_of_exec hs hi rfl (s.fetched.setPc_kept (immAddr nnn)) (by decide)
  rw [hstep, hpc]
  exact congrArg Host.Outcome.next (State.tick_of_timers_zero hdt hst)

/-- Whether a state is parked does not depend on `IR`. -/
theorem State.parked_withIr {s : State} (w : Word) (h : s.parked) : State.parked { s with ir := w } := by
  obtain ⟨hs, hj, hdt, hst⟩ := h
  exact ⟨hs, State.atSelfJump_congr (s := s) rfl rfl hj, hdt, hst⟩

end Sys2Proof.Machine
end

section
/-!
The statements of the families `60_exceptions.md` and `70_reset_and_hazards.md`, settled.
-/

namespace Sys2Proof.Machine

/-- Settles O25, action by action: a reset lists no cell (O24), a load writes whole bytes, a key write leaves memory
alone, and a Step keeps the form (O23). -/
theorem hostActionsKeepMemoryCanonical : Obligations.HostActionsKeepMemoryCanonical := by
  intro a c d hwf h
  obtain ⟨-, rfl⟩ | ⟨bytes, -, -, -, rfl⟩ | ⟨flags, -, rfl⟩ | ⟨t, -, hstep, rfl⟩ := hostAct_cases h
  · exact resetMemoryIsCanonical
  · exact State.writeBytes_wf hwf _ _
  · exact hwf
  · exact stepKeepsMemoryCanonical c.machine t hwf hstep

/-- Settles O55, one clause per branch of the port: an image that fits is shorter than memory, so no byte of it
overwrites another. -/
theorem imageIsLoadedOrRefusedWhole : Obligations.ImageIsLoadedOrRefusedWhole := by
  refine fun s bytes => ⟨fun hlen => ?_, s.loadImage_tooLarge⟩
  have hread (k : Nat) (hk : k < bytes.length) : (s.writeBytes 0x200 bytes).read (0x200 + k) = bytes[k] :=
    memRead_memWriteBytes_inside _ _ _ _ hk (by omega)
  exact ⟨_, s.loadImage_fits hlen, hread, s.writeBytes_memKept _ bytes, s.writeBytes_kept _ bytes⟩

/-- Settles O26, action by action: a reset gives all but the draw counter its reset value, a load and a key write each
change one part that the frame leaves out, and a Step starts the run. -/
theorem programStartsFromResetValues : Obligations.ProgramStartsFromResetValues := by
  intro a c d _ hkept h hd
  obtain ⟨-, rfl⟩ | ⟨bytes, -, -, -, rfl⟩ | ⟨flags, -, rfl⟩ | ⟨t, -, -, rfl⟩ := hostAct_cases h
  · exact (State.reset.withDraws_kept _).mono (by simp)
  · exact hkept.trans ((c.machine.writeBytes_kept _ bytes).mono (by simp))
  · exact hkept.trans ((c.machine.setKeys_kept flags).mono (by simp))
  · exact absurd rfl hd

/-- Settles O58: the Step loads `IR` with the self-jump and changes nothing else, so the next one loads the same
word. -/
theorem parkedStateIsAFixedPoint : Obligations.ParkedStateIsAFixedPoint := by
  intro s h
  have hparked := State.parked_withIr s.fetchWord h
  exact ⟨_, step_parked h, hparked, s.withIr_kept _, step_parked hparked⟩

end Sys2Proof.Machine
end
